-- ==== Sys2Proof/Word.lean ====
section
/-! DEFINITION. The cell and word types of the block (00_scope.md rules R8 to R10): 32-bit command,
operand, register and response words, 16-bit palette cells, 8-bit stream and pixel cells. -/

namespace Sys2Proof

/-- A command, operand, register or response word: `WORD_BITS` = 32 (rule R8). -/
abbrev Word := BitVec 32

/-- A cell of `PK` or `PX` (rules R50, R52). -/
abbrev Byte := BitVec 8

/-- A cell of `PAL`: `PAL_ENTRY_BITS` = 16 (rules R8, R51). -/
abbrev Colour := BitVec 16

end Sys2Proof
end

