-- ==== Sys2Proof/Syntax.lean ====
section
/-! DEFINITION. The thirteen commands as typed constructors (00_scope.md rule R17, 30_encoding.md rules
R93, R94), and the packet that carries one over the command port (rule R90). -/

namespace Sys2Proof

/-- The engine select: `NUM_ENGINES` = 2 motion engines, numbered 0 and 1 (rules R2, R92). -/
inductive EngineId where
  | e0
  | e1
  deriving DecidableEq, Repr

/-- A command: one constructor per row of the opcode map (rule R94), its operands as rule R93 types them
(`u16` and `u8` operands by their width; `s32` operands as the word that carries them). -/
inductive Instr where
  /-- WRREG: header fields `ENG`, `REG`; operand `value` (rule R202). -/
  | wrreg (eng : EngineId) (reg : BitVec 8) (value : Word)
  /-- RDREG: header fields `ENG`, `REG` (rule R203). -/
  | rdreg (eng : EngineId) (reg : BitVec 8)
  /-- WRPAL: operands `index`: u32, `value`: u16 (rule R204). -/
  | wrpal (index : Word) (value : Colour)
  /-- WRPK: operands `addr`: u32, `value`: u8 (rule R205). -/
  | wrpk (addr : Word) (value : Byte)
  /-- RDPX: operand `addr`: u32 (rule R206). -/
  | rdpx (addr : Word)
  /-- DECODE (rule R120). -/
  | decode
  /-- CONSTRUCT (rule R152). -/
  | construct (eng : EngineId)
  /-- RECENTER (rule R155). -/
  | recenter (eng : EngineId)
  /-- SETDIR: operands `h`, `v`: s32 (rule R158). -/
  | setdir (eng : EngineId) (h v : Word)
  /-- SETTGT: operands `x`, `y`: s32 (rule R160). -/
  | settgt (eng : EngineId) (x y : Word)
  /-- SETTGTA: operands `rawX`, `rawY`, `rangeMax`: u32 (rule R162). -/
  | settgta (eng : EngineId) (rawX rawY rangeMax : Word)
  /-- ATTGT (rule R168). -/
  | attgt (eng : EngineId)
  /-- ADVANCE: header bit `S` is `stopAtTarget` (rule R170). -/
  | advance (eng : EngineId) (stopAtTarget : Bool)
  deriving DecidableEq, Repr

/-- A command packet: a header word and its operand words, framed by the port (rule R90). A packet of no
words cannot be delivered (rule R95), so the header is always there. -/
structure Packet where
  header : Word
  operands : List Word
  deriving DecidableEq, Repr

end Sys2Proof
end

