-- ==== Sys2Proof/WellFormed.lean ====
section
/-! DEFINITION. Which typed commands have a packet: 30_encoding.md rules R92 and R95(3). The widths of
`u16` and `u8` operands (rule R95(4)) are in their types. -/

namespace Sys2Proof

/-- Whether a register number belongs to the decoder, `REG` < 0x20 (rule R92). -/
def isDecoderNumber (reg : BitVec 8) : Bool := decide (reg.toNat < 0x20)

/-- In WRREG and RDREG `ENG` must be 0 when `REG` names a decoder register (rules R92, R95(3)); every
other command is well formed. -/
def Instr.wf : Instr → Bool
  | .wrreg eng reg _ => !(isDecoderNumber reg) || eng == .e0
  | .rdreg eng reg => !(isDecoderNumber reg) || eng == .e0
  | .wrpal _ _ => true
  | .wrpk _ _ => true
  | .rdpx _ => true
  | .decode => true
  | .construct _ => true
  | .recenter _ => true
  | .setdir _ _ _ => true
  | .settgt _ _ _ => true
  | .settgta _ _ _ _ => true
  | .attgt _ => true
  | .advance _ _ => true

end Sys2Proof
end

