-- ==== Sys2Proof/Decode.lean ====
section
/-! DEFINITION. The opcode map (30_encoding.md rule R94), decoding a packet (rule R95, total on any list
of words, rejecting by name), the encoder written from the same map, and the host's two views of a word
of spec/opcode_table.json. -/

namespace Sys2Proof

/-- The mnemonics of rule R94. -/
inductive Opcode where
  | wrreg | rdreg | wrpal | wrpk | rdpx | decode
  | construct | recenter | setdir | settgt | settgta | attgt | advance
  deriving DecidableEq, Repr

/-- A row of rule R94: a header `h` selects it when `h & mask = pattern`; `ops` operand words follow. -/
structure OpRow where
  op : Opcode
  pattern : Word
  mask : Word
  ops : Nat
  deriving DecidableEq, Repr

/-- Why a packet is illegal (rules R95, R96). -/
inductive DecodeError where
  /-- No word at all: such a packet cannot be delivered (rule R95). -/
  | emptyPacket
  /-- No row of rule R94 matches the header: an unassigned `OPC`, a reserved bit set, or `ENG`, `REG` or
  `S` non-zero where it must be 0 (rules R95(1), R96). -/
  | unknownHeader
  /-- The number of operand words is not the row's (rule R95(2)). -/
  | operandCount
  /-- WRREG or RDREG of a decoder register with `ENG` = 1 (rule R95(3)). -/
  | engineOnDecoderRegister
  /-- A `u16` or `u8` operand has a bit above its width (rule R95(4)). -/
  | operandTooWide
  deriving DecidableEq, Repr

/-- The thirteen rows of rule R94. -/
def opcodeTable : List OpRow :=
  [ ⟨.wrreg,     0x01000000, 0xFFFE00FF, 1⟩,
    ⟨.rdreg,     0x02000000, 0xFFFE00FF, 0⟩,
    ⟨.wrpal,     0x03000000, 0xFFFFFFFF, 2⟩,
    ⟨.wrpk,      0x04000000, 0xFFFFFFFF, 2⟩,
    ⟨.rdpx,      0x05000000, 0xFFFFFFFF, 1⟩,
    ⟨.decode,    0x10000000, 0xFFFFFFFF, 0⟩,
    ⟨.construct, 0x20000000, 0xFFFEFFFF, 0⟩,
    ⟨.recenter,  0x21000000, 0xFFFEFFFF, 0⟩,
    ⟨.setdir,    0x22000000, 0xFFFEFFFF, 2⟩,
    ⟨.settgt,    0x23000000, 0xFFFEFFFF, 2⟩,
    ⟨.settgta,   0x24000000, 0xFFFEFFFF, 3⟩,
    ⟨.attgt,     0x25000000, 0xFFFEFFFF, 0⟩,
    ⟨.advance,   0x26000000, 0xFFFEFFFE, 0⟩ ]

/-- `h & mask = match` (rule R94). -/
def OpRow.selects (r : OpRow) (h : Word) : Bool := (h &&& r.mask) == r.pattern

/-- The row a header selects, if any (rule R95(1)). -/
def findRow (h : Word) : Option OpRow := opcodeTable.find? fun r => r.selects h

/-- Field `ENG`, bit 16 (rule R91). -/
def engField (h : Word) : EngineId := if h.getLsbD 16 then .e1 else .e0

/-- Field `REG`, bits 15 to 8 (rule R91). -/
def regField (h : Word) : BitVec 8 := h.extractLsb' 8 8

/-- Field `S`, bit 0 (rule R91). -/
def stopField (h : Word) : Bool := h.getLsbD 0

/-- An operand declared narrower than a word must have all higher bits 0 (rule R93). -/
def narrowOperand (width : Nat) (v : Word) : Except DecodeError (BitVec width) :=
  if v.toNat < 2 ^ width then .ok (v.setWidth width) else .error .operandTooWide

/-- A command with no operand word (rule R93). -/
def operands0 (f : Except DecodeError Instr) : List Word → Except DecodeError Instr
  | [] => f
  | _ => .error .operandCount

/-- A command with one operand word (rule R93). -/
def operands1 (f : Word → Except DecodeError Instr) : List Word → Except DecodeError Instr
  | [a] => f a
  | _ => .error .operandCount

/-- A command with two operand words (rule R93). -/
def operands2 (f : Word → Word → Except DecodeError Instr) : List Word → Except DecodeError Instr
  | [a, b] => f a b
  | _ => .error .operandCount

/-- A command with three operand words (rule R93). -/
def operands3 (f : Word → Word → Word → Except DecodeError Instr) : List Word → Except DecodeError Instr
  | [a, b, c] => f a b c
  | _ => .error .operandCount

/-- In WRREG and RDREG, `REG` < 0x20 with `ENG` = 1 is illegal (rule R95(3)). -/
def checkEngine (i : Instr) : Except DecodeError Instr :=
  if i.wf then .ok i else .error .engineOnDecoderRegister

/-- The fields and operands of a header's row (rules R92, R93, R95(2) to (5)). -/
def readFields (op : Opcode) (h : Word) (operands : List Word) : Except DecodeError Instr :=
  match op with
  | .wrreg => operands1 (fun v => checkEngine (.wrreg (engField h) (regField h) v)) operands
  | .rdreg => operands0 (checkEngine (.rdreg (engField h) (regField h))) operands
  | .wrpal => operands2 (fun i v => (narrowOperand 16 v).map fun c => .wrpal i c) operands
  | .wrpk => operands2 (fun a v => (narrowOperand 8 v).map fun b => .wrpk a b) operands
  | .rdpx => operands1 (fun a => .ok (.rdpx a)) operands
  | .decode => operands0 (.ok .decode) operands
  | .construct => operands0 (.ok (.construct (engField h))) operands
  | .recenter => operands0 (.ok (.recenter (engField h))) operands
  | .setdir => operands2 (fun x y => .ok (.setdir (engField h) x y)) operands
  | .settgt => operands2 (fun x y => .ok (.settgt (engField h) x y)) operands
  | .settgta => operands3 (fun x y m => .ok (.settgta (engField h) x y m)) operands
  | .attgt => operands0 (.ok (.attgt (engField h))) operands
  | .advance => operands0 (.ok (.advance (engField h) (stopField h))) operands

/-- Decoding a packet (rule R95): the header's row, the operand count, then the fields. -/
def decodePacket (p : Packet) : Except DecodeError Instr :=
  match findRow p.header with
  | none => .error .unknownHeader
  | some r =>
    if p.operands.length = r.ops then readFields r.op p.header p.operands else .error .operandCount

/-- Decoding any list of words (rule R95). -/
def decodeWords : List Word → Except DecodeError Instr
  | [] => .error .emptyPacket
  | h :: operands => decodePacket ⟨h, operands⟩

/-- Bit 16 of a header that selects the engine (rule R92). -/
def EngineId.bit : EngineId → BitVec 1
  | .e0 => 0#1
  | .e1 => 1#1

/-- The header word of rule R91, its reserved bits 23:17 and 7:1 zero. -/
def headerWord (opc : BitVec 8) (eng : EngineId) (reg : BitVec 8) (s : Bool) : Word :=
  opc.setWidth 32 <<< 24 ||| eng.bit.setWidth 32 <<< 16 ||| reg.setWidth 32 <<< 8 ||| (BitVec.ofBool s).setWidth 32

/-- The packet of a command (rules R91, R93, R94). -/
def encode : Instr → Packet
  | .wrreg eng reg v => ⟨headerWord 0x01 eng reg false, [v]⟩
  | .rdreg eng reg => ⟨headerWord 0x02 eng reg false, []⟩
  | .wrpal i v => ⟨headerWord 0x03 .e0 0 false, [i, v.setWidth 32]⟩
  | .wrpk a v => ⟨headerWord 0x04 .e0 0 false, [a, v.setWidth 32]⟩
  | .rdpx a => ⟨headerWord 0x05 .e0 0 false, [a]⟩
  | .decode => ⟨headerWord 0x10 .e0 0 false, []⟩
  | .construct eng => ⟨headerWord 0x20 eng 0 false, []⟩
  | .recenter eng => ⟨headerWord 0x21 eng 0 false, []⟩
  | .setdir eng h v => ⟨headerWord 0x22 eng 0 false, [h, v]⟩
  | .settgt eng x y => ⟨headerWord 0x23 eng 0 false, [x, y]⟩
  | .settgta eng x y m => ⟨headerWord 0x24 eng 0 false, [x, y, m]⟩
  | .attgt eng => ⟨headerWord 0x25 eng 0 false, []⟩
  | .advance eng s => ⟨headerWord 0x26 eng 0 s, []⟩

/-- The opcode of a command (rule R94). -/
def Instr.opcode : Instr → Opcode
  | .wrreg _ _ _ => .wrreg
  | .rdreg _ _ => .rdreg
  | .wrpal _ _ => .wrpal
  | .wrpk _ _ => .wrpk
  | .rdpx _ => .rdpx
  | .decode => .decode
  | .construct _ => .construct
  | .recenter _ => .recenter
  | .setdir _ _ _ => .setdir
  | .settgt _ _ _ => .settgt
  | .settgta _ _ _ _ => .settgta
  | .attgt _ => .attgt
  | .advance _ _ => .advance

/-- The packet of an instruction whose bits are `w`, bit 0 the least significant bit of the header, later
words counting on: `nbits` of them are given, the rest are 0. As many words as `nbits` fills, and at least
as many as the header's row has (assumption 3). -/
def packetOfTableWord (nbits w : Nat) : Packet :=
  let bits := w % 2 ^ nbits
  let header : Word := BitVec.ofNat 32 bits
  let rowOps := match findRow header with
    | none => 0
    | some r => r.ops
  let ops := max ((nbits + 31) / 32 - 1) rowOps
  ⟨header, (List.range ops).map fun j => BitVec.ofNat 32 (bits / 2 ^ (32 * (j + 1)))⟩

/-- What the decoder reads from an instruction whose bits are `w`, numbered as spec/opcode_table.json
numbers them; `none` where it refuses. -/
def decodeTableWord (nbits w : Nat) : Option Instr :=
  match decodePacket (packetOfTableWord nbits w) with
  | .ok i => some i
  | .error _ => none

end Sys2Proof
end

