-- ==== Sys2Proof/Config.lean ====
section
/-! DEFINITION. The parameters of 00_scope.md rule R8 (93_implementation_defined.md section 4) as plain
data, and the one free value of the model: what `PX` holds after a failed scan (40_decoder.md rule R128).
What each parameter's value means is computed in Machine/Operands.lean. -/

namespace Sys2Proof

/-- `CENTER_FORMULA` (rule R8, decision D19). -/
inductive CenterFormula where
  /-- `(D - S) div 2`, the default. -/
  | floorOfDifference
  /-- `D div 2 - S div 2`, the other reading that D19 names. -/
  | differenceOfFloors
  deriving DecidableEq, Repr

/-- `LOW_EDGE_CMP` (rule R8, decision D21). -/
inductive LowEdgeCmp where
  /-- `<=`, the default. -/
  | atOrBelow
  /-- `<`, the alternative that D21 names. -/
  | below
  deriving DecidableEq, Repr

/-- `ANALOG_ROUNDING` (rule R8, decision D24). -/
inductive AnalogRounding where
  /-- Floor, the default. -/
  | floor
  /-- To nearest, the alternative that D24 names. DESIGN CHOICE: ties go up (assumption 11). -/
  | nearest
  deriving DecidableEq, Repr

/-- The parameters of rule R8 that a model takes as configuration. -/
structure Config where
  /-- `PK_CAP`: capacity of `PK` in bytes. -/
  pkCap : Nat
  /-- `PX_CAP`: capacity of `PX` in bytes. -/
  pxCap : Nat
  /-- `BPP_MIN`. -/
  bppMin : Nat
  /-- `BPP_MAX`. -/
  bppMax : Nat
  /-- Whether the admitted set is narrowed to {1, 2, 4, 8}, as decision D8 allows. -/
  bppDivisorsOnly : Bool
  /-- `CENTER_FORMULA`. -/
  centerFormula : CenterFormula
  /-- `LOW_EDGE_CMP`. -/
  lowEdgeCmp : LowEdgeCmp
  /-- `ANALOG_ROUNDING`. -/
  analogRounding : AnalogRounding
  /-- `JITTER_INCLUSIVE`. -/
  jitterInclusive : Bool
  deriving DecidableEq, Repr

/-- The value column of rule R8. -/
def Config.default : Config where
  pkCap := 2 ^ 32
  pxCap := 2 ^ 32
  bppMin := 1
  bppMax := 8
  bppDivisorsOnly := false
  centerFormula := .floorOfDifference
  lowEdgeCmp := .atOrBelow
  analogRounding := .floor
  jitterInclusive := true

/-- The bounds rule R8 puts on the parameters: capacities of at most 2^32 bytes, `B` within 1 to 8. -/
def Config.wf (c : Config) : Bool :=
  decide (c.pkCap ≤ 2 ^ 32) && decide (c.pxCap ≤ 2 ^ 32) && decide (1 ≤ c.bppMin) && decide (c.bppMax ≤ 8)

/-- `PAL_DEPTH` (rule R8): fixed. -/
def palDepth : Nat := 256

/-- FREE VALUE (assumption 8). The cells `PX` holds after the `n`-th DECODE of a run that ended in
PaletteIndexOutOfRange: "every cell may hold its old value, a value the failed scan produced, or anything
else" (rule R128). Nothing constrains it. -/
opaque Config.pxAfterFailure (n : Nat) : List (Nat × Byte)

end Sys2Proof
end

