-- ==== Sys2Proof/Machine/State.lean ====
section
/-! DEFINITION. The state of the block as plain data (10_state.md rule R20), and its value after reset
(70_reset_and_hazards.md rule R261). A register that rule R40 resets to `none` holds "no value" until a
command writes it (00_scope.md rule R15): the spec's own state, an Option here (assumption 6). -/

namespace Sys2Proof.Machine

/-- The tri-state of `DIR_H` and `DIR_V` (rule R23): no fourth value can be stored. -/
inductive Dir where
  /-- STOP, 0. -/
  | stop
  /-- POSITIVE, +1: right, or down. -/
  | positive
  /-- NEGATIVE, -1: left, or up. -/
  | negative
  deriving DecidableEq, Repr

/-- The codes an `ERR` register can latch (rules R38, R45, R221): code 3 is never latched. -/
inductive ErrCode where
  | ok
  | paletteIndexOutOfRange
  | configurationError
  deriving DecidableEq, Repr

/-- The reasons of a `Refused` response (60_exceptions.md rule R228). The response does not distinguish
them; the model keeps the first one of a run in `State.runRefused`. -/
inductive RefuseReason where
  | illegal
  | noSuchRegister
  | readOnly
  | locked
  | address
  | noBuffer
  | unwritten
  | alreadyConstructed
  | notConstructed
  | domain
  | overflow
  deriving DecidableEq, Repr

/-- A memory of `w`-bit cells (00_scope.md rule R13, 20_memory.md rule R66): the cells that hold a value,
by strictly rising address. An address not listed holds `none` (rules R50 to R52). With `w` = 8 a cell is
a `Host.Cell`. -/
abbrev Memory (w : Nat) := List (Nat × BitVec w)

/-- A response packet: the status word and its data words (30_encoding.md rule R100). -/
structure Response where
  status : Word
  data : List Word
  deriving DecidableEq, Repr

/-- The decoder's registers (rules R29, R32 to R39). -/
structure Decoder where
  /-- 0x00 WIDTH. -/
  width : Word
  /-- 0x01 HEIGHT. -/
  height : Word
  /-- 0x02 BPP. -/
  bpp : Word
  /-- 0x03 PAL_LEN. -/
  palLen : Word
  /-- 0x04 PK_LEN. -/
  pkLen : Word
  /-- 0x08 STATUS, bit 0 BUF_VALID. -/
  bufValid : Bool
  /-- 0x09 ERR. -/
  err : ErrCode
  /-- 0x0A ERR_BYTE. -/
  errByte : Word
  /-- 0x0B ERR_PIX. -/
  errPix : Word
  /-- 0x0C BUF_LEN. -/
  bufLen : Word
  deriving DecidableEq, Repr

/-- The registers of one motion engine (rules R21 to R24, R30, R41 to R45). -/
structure Engine where
  /-- 0x20 SPR_W. -/
  sprW : Word
  /-- 0x21 SPR_H. -/
  sprH : Word
  /-- 0x22 DSP_W. -/
  dspW : Word
  /-- 0x23 DSP_H. -/
  dspH : Word
  /-- 0x24 STEP_X. -/
  stepX : Word
  /-- 0x25 STEP_Y. -/
  stepY : Word
  /-- 0x26 JIT_TOL. -/
  jitTol : Word
  /-- 0x30 POS_X. -/
  posX : Option Word
  /-- 0x31 POS_Y. -/
  posY : Option Word
  /-- 0x32 TGT_X. -/
  tgtX : Option Word
  /-- 0x33 TGT_Y. -/
  tgtY : Option Word
  /-- 0x34 DIR_H. -/
  dirH : Option Dir
  /-- 0x35 DIR_V. -/
  dirV : Option Dir
  /-- 0x36 PREV_X. -/
  prevX : Option Word
  /-- 0x37 PREV_Y. -/
  prevY : Option Word
  /-- 0x38 STATUS, bit 0 CONFIGURED. -/
  configured : Bool
  /-- 0x38 STATUS, bit 1 POS_VALID. -/
  posValid : Bool
  /-- 0x38 STATUS, bit 2 PREV_VALID. -/
  prevValid : Bool
  /-- 0x39 ERR. -/
  err : ErrCode
  deriving DecidableEq, Repr

/-- The whole state of the block (rule R20), and beside it five fields of the model's own: the parameters,
the command port, the response port, the refusal mark and the count of free draws. -/
structure State where
  /-- The parameters of rule R8; no step changes them (assumption 10). -/
  cfg : Config
  /-- The decoder's registers. -/
  dec : Decoder
  /-- Motion engine 0. -/
  me0 : Engine
  /-- Motion engine 1. -/
  me1 : Engine
  /-- `PK`, the packed stream (rule R50). -/
  pk : Memory 8
  /-- `PAL`, the palette (rule R51). -/
  pal : Memory 16
  /-- `PX`, the pixel buffer (rule R52). -/
  px : Memory 8
  /-- The command port: the packets the host has issued and not yet had answered, oldest first (rules R71,
  R90; assumption 1). -/
  port : List Packet
  /-- The response to the latest command, none before the first (rule R100; assumption 4). -/
  response : Option Response
  /-- The mark of rule R228: the reason of the run's first refusal (assumption 5). -/
  runRefused : Option RefuseReason
  /-- How many times `PX` was left unspecified (rule R128; assumption 8). -/
  freeDraws : Nat
  deriving DecidableEq, Repr

/-- What stops the block with a fault: nothing, so there is no constructor. The block has no trap and is
ready for the next command after every outcome (rules R230, R231): an error or a refusal is a response and
a next state. Nobody raises a fault, which is as the spec has it (assumption 15). -/
inductive Fault where
  deriving DecidableEq, Repr

/-- Why `exec` has no meaning for an instruction. -/
inductive Refusal where
  /-- Raised by an arm of `exec` whose instruction has no meaning yet; safe. No arm raises it now. -/
  | notModelled (mnemonic : String)
  deriving DecidableEq, Repr

/-- The decoder after reset (rule R261). -/
def Decoder.reset : Decoder where
  width := 0
  height := 0
  bpp := 0
  palLen := 0
  pkLen := 0
  bufValid := false
  err := .ok
  errByte := 0
  errPix := 0
  bufLen := 0

/-- An engine after reset (rule R261): POS, TGT, DIR and PREV hold `none`. -/
def Engine.reset : Engine where
  sprW := 0
  sprH := 0
  dspW := 0
  dspH := 0
  stepX := 0
  stepY := 0
  jitTol := 0
  posX := none
  posY := none
  tgtX := none
  tgtY := none
  dirH := none
  dirV := none
  prevX := none
  prevY := none
  configured := false
  posValid := false
  prevValid := false
  err := .ok

/-- The block after reset (rule R261): every memory cell holds `none`. DESIGN CHOICE (assumptions 1, 4, 5,
8, 10): the parameters at rule R8's values, no packet at the port, no response yet, no refusal, no draw. -/
def State.reset : State where
  cfg := Config.default
  dec := Decoder.reset
  me0 := Engine.reset
  me1 := Engine.reset
  pk := []
  pal := []
  px := []
  port := []
  response := none
  runRefused := none
  freeDraws := 0

end Sys2Proof.Machine
end

