-- ==== Sys2Proof/Machine/Operands.lean ====
section
/-! DEFINITION. How words are read and written as numbers (00_scope.md rules R9, R11; 30_encoding.md rule
R93), what the parameters of rule R8 compute, and the register map (10_state.md rule R40). -/

namespace Sys2Proof

/-! ### What the parameters of rule R8 compute -/

/-- `CENTER_FORMULA` on one axis (41_motion.md rule R155, decision D19); `/` by 2 rounds down. -/
def Config.center (c : Config) (display sprite : Int) : Int :=
  match c.centerFormula with
  | .floorOfDifference => (display - sprite) / 2
  | .differenceOfFloors => display / 2 - sprite / 2

/-- `LOW_EDGE_CMP` against 0 (41_motion.md rule R172, decision D21). -/
def Config.atLowEdge (c : Config) (v : Int) : Bool :=
  match c.lowEdgeCmp with
  | .atOrBelow => decide (v ≤ 0)
  | .below => decide (v < 0)

/-- The linear map under `ANALOG_ROUNDING` (41_motion.md rule R163, decision D24), for `rangeMax` > 0,
where `/` rounds down. The `nearest` alternative rounds half up (DESIGN CHOICE, assumption 11). -/
def Config.analogMap (c : Config) (raw range rangeMax : Int) : Int :=
  match c.analogRounding with
  | .floor => raw * range / rangeMax
  | .nearest => (2 * (raw * range) + rangeMax) / (2 * rangeMax)

/-- Whether a mapped value passes the jitter filter (41_motion.md rule R164, `JITTER_INCLUSIVE`,
decision D25). -/
def Config.outsideJitter (c : Config) (mapped target tol : Int) : Bool :=
  if c.jitterInclusive then decide (tol < |mapped - target|) else decide (tol ≤ |mapped - target|)

/-- Whether `B` is outside the admitted range `BPP_MIN` to `BPP_MAX` (40_decoder.md rule R121(b)), or
outside {1, 2, 4, 8} where the configuration narrows it (decision D8). -/
def Config.bppRejected (c : Config) (b : Nat) : Bool :=
  decide (b < c.bppMin) || decide (c.bppMax < b) || (c.bppDivisorsOnly && decide (8 % b ≠ 0))

end Sys2Proof

namespace Sys2Proof.Machine

/-! ### Words as numbers -/

/-- `sext_32(word)` (rules R11, R93). -/
def s32 (w : Word) : Int := w.toInt

/-- `zext_32(word)` (rules R11, R93). -/
def u32 (w : Word) : Int := (w.toNat : Int)

/-- The 32-bit word of an integer that a rule has checked to fit. -/
def word (v : Int) : Word := BitVec.ofInt 32 v

/-- `v` fits `s32` (rule R9). -/
def fitsS32 (v : Int) : Bool := decide (-(2 ^ 31) ≤ v) && decide (v ≤ 2 ^ 31 - 1)

/-- `v` fits `u32` (rule R9). -/
def fitsU32 (v : Int) : Bool := decide (0 ≤ v) && decide (v ≤ 2 ^ 32 - 1)

/-- The number of a direction (rule R23). -/
def Dir.toInt : Dir → Int
  | .stop => 0
  | .positive => 1
  | .negative => -1

/-- The word RDREG returns for a direction (rule R23). -/
def Dir.toWord : Dir → Word
  | .stop => 0x00000000
  | .positive => 0x00000001
  | .negative => 0xFFFFFFFF

/-- `sgn` (rule R11) as a direction: negative to NEGATIVE, zero to STOP, positive to POSITIVE. -/
def sgn (v : Int) : Dir :=
  if v < 0 then .negative else if v = 0 then .stop else .positive

/-- The number of a latched code (rule R221). -/
def ErrCode.toWord : ErrCode → Word
  | .ok => 0
  | .paletteIndexOutOfRange => 1
  | .configurationError => 2

/-! ### The register map -/

/-- The registers of rule R40. -/
inductive Reg where
  | width | height | bpp | palLen | pkLen
  | decStatus | decErr | errByte | errPix | bufLen
  | sprW | sprH | dspW | dspH | stepX | stepY | jitTol
  | posX | posY | tgtX | tgtY | dirH | dirV | prevX | prevY
  | meStatus | meErr
  deriving DecidableEq, Repr

/-- The access column of rule R40. -/
inductive Access where
  /-- RW: writable at any time. -/
  | readWrite
  /-- RW until CONSTRUCT, then RO. -/
  | untilConstruct
  /-- RO: no WRREG can write it. -/
  | readOnly
  deriving DecidableEq, Repr

/-- The first column of rule R40. -/
def Reg.number : Reg → BitVec 8
  | .width => 0x00
  | .height => 0x01
  | .bpp => 0x02
  | .palLen => 0x03
  | .pkLen => 0x04
  | .decStatus => 0x08
  | .decErr => 0x09
  | .errByte => 0x0A
  | .errPix => 0x0B
  | .bufLen => 0x0C
  | .sprW => 0x20
  | .sprH => 0x21
  | .dspW => 0x22
  | .dspH => 0x23
  | .stepX => 0x24
  | .stepY => 0x25
  | .jitTol => 0x26
  | .posX => 0x30
  | .posY => 0x31
  | .tgtX => 0x32
  | .tgtY => 0x33
  | .dirH => 0x34
  | .dirV => 0x35
  | .prevX => 0x36
  | .prevY => 0x37
  | .meStatus => 0x38
  | .meErr => 0x39

/-- The access column of rule R40 (rule R46). -/
def Reg.access : Reg → Access
  | .width | .height | .bpp | .palLen | .pkLen => .readWrite
  | .stepX | .stepY | .jitTol => .readWrite
  | .sprW | .sprH | .dspW | .dspH => .untilConstruct
  | .decStatus | .decErr | .errByte | .errPix | .bufLen => .readOnly
  | .posX | .posY | .tgtX | .tgtY | .dirH | .dirV | .prevX | .prevY => .readOnly
  | .meStatus | .meErr => .readOnly

/-- Every row of rule R40. -/
def Reg.all : List Reg :=
  [.width, .height, .bpp, .palLen, .pkLen, .decStatus, .decErr, .errByte, .errPix, .bufLen,
    .sprW, .sprH, .dspW, .dspH, .stepX, .stepY, .jitTol,
    .posX, .posY, .tgtX, .tgtY, .dirH, .dirV, .prevX, .prevY, .meStatus, .meErr]

/-- The register with a number, `none` where the number names no register (rule R40). -/
def Reg.ofNumber (n : BitVec 8) : Option Reg := Reg.all.find? fun r => r.number == n

end Sys2Proof.Machine
end

