-- ==== Sys2Proof/Machine/Flags.lean ====
section
/-! DEFINITION. Every flag word: the two status registers (10_state.md rules R37, R44) and the response
packet of an outcome (30_encoding.md rules R101 to R103). There are no condition codes (rule R31). -/

namespace Sys2Proof.Machine

/-- `DEC.STATUS`: bit 0 BUF_VALID, bits 31 to 1 zero (rule R37). -/
def Decoder.statusWord (d : Decoder) : Word := 0#31 ++ BitVec.ofBool d.bufValid

/-- `ME.STATUS`: bit 0 CONFIGURED, bit 1 POS_VALID, bit 2 PREV_VALID, bits 31 to 3 zero (rule R44). -/
def Engine.statusWord (m : Engine) : Word :=
  0#29 ++ BitVec.ofBool m.prevValid ++ BitVec.ofBool m.posValid ++ BitVec.ofBool m.configured

/-- An erase rectangle (rule R174) as its four response words; `x`, `y` are s32, `w`, `h` u32. -/
structure Rect where
  x : Word
  y : Word
  w : Word
  h : Word
  deriving DecidableEq, Repr

/-- How a command ends (00_scope.md rule R14), with what its response carries (rule R102, R103). -/
inductive Answer where
  /-- OK with the data words listed: none for most commands, one for RDREG and RDPX. -/
  | ok (data : List Word)
  /-- OK of ATTGT: the Boolean result. -/
  | flag (value : Bool)
  /-- OK of ADVANCE: the new position, then the vertical and the horizontal strip where present. -/
  | moved (newX newY : Word) (vertical horizontal : Option Rect)
  /-- PaletteIndexOutOfRange with its two values (rule R222). -/
  | paletteIndexOutOfRange (bytePos pixIdx : Word)
  /-- ConfigurationError (rule R223). -/
  | configurationError
  /-- Refused (rule R228). -/
  | refused (reason : RefuseReason)
  deriving DecidableEq, Repr

/-- The status word of rule R101: `RH` bit 17, `RV` bit 16, `FLAG` bit 8, `ERR` bits 7 to 0. -/
def statusWord (err : BitVec 8) (flag rv rh : Bool) : Word :=
  0#14 ++ BitVec.ofBool rh ++ BitVec.ofBool rv ++ 0#7 ++ BitVec.ofBool flag ++ err

/-- The four words of a strip, in order (rule R102). -/
def Rect.words (r : Rect) : List Word := [r.x, r.y, r.w, r.h]

/-- The words of a strip that may be absent. -/
def stripWords : Option Rect → List Word
  | none => []
  | some r => r.words

/-- The response packet of an outcome (rules R101 to R103). -/
def Answer.response : Answer → Response
  | .ok data => ⟨statusWord 0 false false false, data⟩
  | .flag value => ⟨statusWord 0 value false false, []⟩
  | .moved x y v h => ⟨statusWord 0 false v.isSome h.isSome, [x, y] ++ stripWords v ++ stripWords h⟩
  | .paletteIndexOutOfRange b p => ⟨statusWord 1 false false false, [b, p]⟩
  | .configurationError => ⟨statusWord 2 false false false, []⟩
  | .refused _ => ⟨statusWord 3 false false false, []⟩

/-- The refusal mark after an outcome (rule R228): the first refusal of the run stays. -/
def Answer.mark (a : Answer) (before : Option RefuseReason) : Option RefuseReason :=
  match a, before with
  | .refused _, some r => some r
  | .refused r, none => some r
  | _, b => b

end Sys2Proof.Machine
end

