-- ==== Sys2Proof/Machine/Ops.lean ====
section
/-! DEFINITION. The named operations over the memories, the registers, the command port and the response
port. `answer` is the one way a command ends: the block has no trap, an error is "the delivery of a
response whose `ERR` is not 0" (60_exceptions.md rule R230), and nothing returns from one (rule R231). -/

namespace Sys2Proof.Machine

/-- The outcome of a step. -/
abbrev Outcome := Host.Outcome State Fault Refusal

/-! ### Memories (20_memory.md rules R66, R67) -/

/-- `MemRead(M, a, 1)`: the cell at address `a`, `none` where nothing was written (rules R13, R15). -/
def Memory.read {w : Nat} : Memory w → Nat → Option (BitVec w)
  | [], _ => none
  | (b, v) :: rest, a => if a = b then some v else Memory.read rest a

/-- `MemWrite(M, a, 1, v)`, keeping the addresses strictly rising (rule R13). -/
def Memory.write {w : Nat} : Memory w → Nat → BitVec w → Memory w
  | [], a, v => [(a, v)]
  | (b, u) :: rest, a, v =>
    if a < b then (a, v) :: (b, u) :: rest
    else if a = b then (a, v) :: rest
    else (b, u) :: Memory.write rest a v

/-- Writes a sequence of cells from address `a` upward. -/
def Memory.writeAll {w : Nat} (m : Memory w) (a : Nat) : List (BitVec w) → Memory w
  | [] => m
  | v :: rest => Memory.writeAll (m.write a v) (a + 1) rest

/-- The memory that holds exactly the cells listed, a later pair at the same address giving way to an
earlier one. -/
def Memory.ofCells {w : Nat} : List (Nat × BitVec w) → Memory w
  | [] => []
  | (a, v) :: rest => (Memory.ofCells rest).write a v

/-- The canonical form: addresses strictly rising. An unlisted address holds `none`, so no entry can equal
what it reads as. -/
abbrev Memory.wf {w : Nat} (m : Memory w) : Prop := m.Pairwise fun c d => c.1 < d.1

/-- Every cell that holds a value lies below the capacity (rules R50 to R52). -/
abbrev Memory.within {w : Nat} (m : Memory w) (cap : Nat) : Prop := ∀ c ∈ m, c.1 < cap

/-! ### Units of the state -/

/-- The engine a command addresses (30_encoding.md rule R92). -/
def State.engine (s : State) : EngineId → Engine
  | .e0 => s.me0
  | .e1 => s.me1

/-- Replaces the registers of one engine; the other engine stays (20_memory.md rule R75). -/
def State.setEngine (s : State) (e : EngineId) (m : Engine) : State :=
  match e with
  | .e0 => { s with me0 := m }
  | .e1 => { s with me1 := m }

/-- Replaces the decoder's registers. -/
def State.setDec (s : State) (d : Decoder) : State := { s with dec := d }

/-- Replaces `PK`. -/
def State.setPk (s : State) (m : Memory 8) : State := { s with pk := m }

/-- Replaces `PAL`. -/
def State.setPal (s : State) (m : Memory 16) : State := { s with pal := m }

/-- Replaces `PX`. -/
def State.setPx (s : State) (m : Memory 8) : State := { s with px := m }

/-- Leaves `PX` unspecified (40_decoder.md rule R128): its cells below `PX_CAP` become the next free
draw (assumption 8). -/
def State.loosePx (s : State) : State :=
  { s with
    px := Memory.ofCells ((Config.pxAfterFailure s.freeDraws).filter fun c => decide (c.1 < s.cfg.pxCap))
    freeDraws := s.freeDraws + 1 }

/-! ### Registers (10_state.md rule R40) -/

/-- `REG[n]` as RDREG returns it (42_access.md rule R203): `none` where it holds no value. -/
def State.readReg (s : State) (e : EngineId) : Reg → Option Word
  | .width => some s.dec.width
  | .height => some s.dec.height
  | .bpp => some s.dec.bpp
  | .palLen => some s.dec.palLen
  | .pkLen => some s.dec.pkLen
  | .decStatus => some s.dec.statusWord
  | .decErr => some s.dec.err.toWord
  | .errByte => some s.dec.errByte
  | .errPix => some s.dec.errPix
  | .bufLen => some s.dec.bufLen
  | .sprW => some (s.engine e).sprW
  | .sprH => some (s.engine e).sprH
  | .dspW => some (s.engine e).dspW
  | .dspH => some (s.engine e).dspH
  | .stepX => some (s.engine e).stepX
  | .stepY => some (s.engine e).stepY
  | .jitTol => some (s.engine e).jitTol
  | .posX => (s.engine e).posX
  | .posY => (s.engine e).posY
  | .tgtX => (s.engine e).tgtX
  | .tgtY => (s.engine e).tgtY
  | .dirH => (s.engine e).dirH.map Dir.toWord
  | .dirV => (s.engine e).dirV.map Dir.toWord
  | .prevX => (s.engine e).prevX
  | .prevY => (s.engine e).prevY
  | .meStatus => some (s.engine e).statusWord
  | .meErr => some (s.engine e).err.toWord

/-- `REG[n] <- value` (42_access.md rule R202): the decoder's register, or engine `e`'s. A register that
rule R40 marks RO discards the write; WRREG refuses before it gets here. -/
def State.writeReg (s : State) (e : EngineId) (r : Reg) (v : Word) : State :=
  match r with
  | .width => s.setDec { s.dec with width := v }
  | .height => s.setDec { s.dec with height := v }
  | .bpp => s.setDec { s.dec with bpp := v }
  | .palLen => s.setDec { s.dec with palLen := v }
  | .pkLen => s.setDec { s.dec with pkLen := v }
  | .sprW => s.setEngine e { s.engine e with sprW := v }
  | .sprH => s.setEngine e { s.engine e with sprH := v }
  | .dspW => s.setEngine e { s.engine e with dspW := v }
  | .dspH => s.setEngine e { s.engine e with dspH := v }
  | .stepX => s.setEngine e { s.engine e with stepX := v }
  | .stepY => s.setEngine e { s.engine e with stepY := v }
  | .jitTol => s.setEngine e { s.engine e with jitTol := v }
  | .decStatus | .decErr | .errByte | .errPix | .bufLen => s
  | .posX | .posY | .tgtX | .tgtY | .dirH | .dirV | .prevX | .prevY => s
  | .meStatus | .meErr => s

/-- A point read from two coordinate registers, `none` when either holds no value (rule R15). -/
def readPoint (x y : Option Word) : Option (Int × Int) :=
  match x, y with
  | some x, some y => some (s32 x, s32 y)
  | _, _ => none

/-- The two directions of an engine, `none` when either holds no value (rule R15). -/
def readDirs (h v : Option Dir) : Option (Dir × Dir) :=
  match h, v with
  | some h, some v => some (h, v)
  | _, _ => none

/-- Whether one of the four geometry registers is 0 (41_motion.md rules R152, R155). -/
def Engine.zeroGeometry (m : Engine) : Bool :=
  m.sprW == 0 || m.sprH == 0 || m.dspW == 0 || m.dspH == 0

/-! ### The ports -/

/-- Takes the oldest packet from the command port (20_memory.md rule R71). -/
def State.takePacket (s : State) : Option (Packet × State) :=
  match s.port with
  | [] => none
  | p :: rest => some (p, { s with port := rest })

/-- Ends a command: its response is delivered (rule R100), a refusal marks the run (rule R228), and the
block is ready for the next command (rule R231). -/
def answer (a : Answer) (s : State) : Outcome :=
  .next { s with response := some a.response, runRefused := a.mark s.runRefused }

/-- `refuse(reason)` (00_scope.md rule R14, 60_exceptions.md rule R228). -/
def refuse (r : RefuseReason) (s : State) : Outcome := answer (.refused r) s

/-- The precondition of SETDIR, SETTGT, SETTGTA, ATTGT and ADVANCE (41_motion.md rule R151): the reason to
refuse, if any. -/
def Engine.notReady (m : Engine) : Option RefuseReason :=
  if !m.configured then some .notConstructed
  else if !m.posValid then some .unwritten
  else none

end Sys2Proof.Machine
end

