-- ==== Sys2Proof/Machine/Access.lean ====
section
/-! DEFINITION. The access commands WRREG, RDREG, WRPAL, WRPK and RDPX (42_access.md rules R200 to R207). -/

namespace Sys2Proof.Machine

/-- WRREG (rule R202). A decoder register with `ENG` = 1 is an illegal packet, which rule R229(1) puts
first; the decoder of packets never gives it (assumption 14). -/
def execWrreg (e : EngineId) (n : BitVec 8) (v : Word) (s : State) : Outcome :=
  if !(Instr.wrreg e n v).wf then refuse .illegal s
  else match Reg.ofNumber n with
    | none => refuse .noSuchRegister s
    | some r =>
      match r.access with
      | .readOnly => refuse .readOnly s
      | .untilConstruct =>
        if (s.engine e).configured then refuse .locked s else answer (.ok []) (s.writeReg e r v)
      | .readWrite => answer (.ok []) (s.writeReg e r v)

/-- RDREG (rule R203); illegal as WRREG is. -/
def execRdreg (e : EngineId) (n : BitVec 8) (s : State) : Outcome :=
  if !(Instr.rdreg e n).wf then refuse .illegal s
  else match Reg.ofNumber n with
    | none => refuse .noSuchRegister s
    | some r =>
      match s.readReg e r with
      | none => refuse .unwritten s
      | some v => answer (.ok [v]) s

/-- WRPAL (rule R204). -/
def execWrpal (index : Word) (v : Colour) (s : State) : Outcome :=
  if palDepth ≤ index.toNat then refuse .address s
  else answer (.ok []) (s.setPal (s.pal.write index.toNat v))

/-- WRPK (rule R205). -/
def execWrpk (addr : Word) (v : Byte) (s : State) : Outcome :=
  if s.cfg.pkCap ≤ addr.toNat then refuse .address s
  else answer (.ok []) (s.setPk (s.pk.write addr.toNat v))

/-- RDPX (rule R206). A cell below `BUF_LEN` that holds `none` beside `BUF_VALID` = 1, which no run
reaches, is refused by rule R15 (assumption 13). -/
def execRdpx (addr : Word) (s : State) : Outcome :=
  if !s.dec.bufValid then refuse .noBuffer s
  else if s.dec.bufLen.toNat ≤ addr.toNat then refuse .address s
  else match s.px.read addr.toNat with
    | none => refuse .unwritten s
    | some b => answer (.ok [b.setWidth 32]) s

end Sys2Proof.Machine
end

