-- ==== Sys2Proof/Machine/Decoder.lean ====
section
/-! DEFINITION. DECODE (40_decoder.md rules R120 to R135): the configuration checks, the bit-unpacker in
the byte-and-mask terms of rule R123, the range check, the palette look-up and the commit. -/

namespace Sys2Proof.Machine

/-- `ceil(W * H * B / 8)`, the stream bytes a bitmap needs (rules R11, R121(f)). -/
def streamNeed (w h b : Nat) : Nat := (w * h * b + 7) / 8

/-- The six conditions of rule R121, any of which raises ConfigurationError. -/
def Decoder.inconsistent (d : Decoder) (c : Config) : Bool :=
  decide (d.width.toNat = 0) || decide (d.height.toNat = 0)
    || c.bppRejected d.bpp.toNat
    || decide (palDepth < d.palLen.toNat)
    || decide (min c.pxCap (2 ^ 32 - 2) < 2 * d.width.toNat * d.height.toNat)
    || decide (c.pkCap < d.pkLen.toNat)
    || decide (d.pkLen.toNat < streamNeed d.width.toNat d.height.toNat d.bpp.toNat)

/-- Whether every cell below `n` holds a value (rule R129). -/
def Memory.filled {w : Nat} (m : Memory w) (n : Nat) : Bool :=
  (List.range n).all fun a => (m.read a).isSome

/-- The scan cursor's place in the stream: `bytePos` and the count `avail` of unread bits of that byte
(10_state.md rule R27). -/
structure Cursor where
  bytePos : Nat
  avail : Nat
  deriving DecidableEq, Repr

/-- The `while need > 0` loop of rule R123: takes the next bit group of `PK[bytePos]`, below the bits of
`idx` taken already. Every round takes at least one bit, so `fuel` = `B` rounds are enough. `none` when a
byte holds no value. -/
def unpackChunk (pk : Memory 8) : Nat → Cursor → Nat → Nat → Option (Nat × Cursor)
  | 0, c, _, idx => some (idx, c)
  | fuel + 1, c, need, idx =>
    if need = 0 then some (idx, c)
    else match pk.read c.bytePos with
      | none => none
      | some b =>
        let cur := b.toNat &&& (2 ^ c.avail - 1)
        let take := if c.avail ≤ need then c.avail else need
        let grp := if c.avail ≤ need then cur else cur >>> (c.avail - need)
        let left := c.avail - take
        let next : Cursor := if left = 0 then ⟨c.bytePos + 1, 8⟩ else ⟨c.bytePos, left⟩
        unpackChunk pk fuel next (need - take) ((idx <<< take) ||| grp)

/-- What a scan ends in (rules R123, R125, R129). -/
inductive ScanResult where
  /-- The bytes of the PixelBuffer. -/
  | done (out : List Byte)
  /-- PaletteIndexOutOfRange. -/
  | outOfRange (bytePos pixIdx : Nat)
  /-- A cell of `PK` or `PAL` that holds `none` was needed. -/
  | unwritten
  deriving DecidableEq, Repr

/-- Puts a pixel's two bytes, low byte first (rules R61, R126), before the rest of the buffer. -/
def ScanResult.cons (v : Colour) : ScanResult → ScanResult
  | .done out => .done (v.extractLsb' 0 8 :: v.extractLsb' 8 8 :: out)
  | r => r

/-- The loop over pixels of rule R123: `left` pixels remain, `p` is the next, `c` the cursor. -/
def scanPixels (pk : Memory 8) (pal : Memory 16) (bpp palLen : Nat) : Nat → Nat → Cursor → ScanResult
  | 0, _, _ => .done []
  | left + 1, p, c =>
    match unpackChunk pk bpp c bpp 0 with
    | none => .unwritten
    | some (idx, c') =>
      if palLen ≤ idx then .outOfRange c.bytePos p
      else match pal.read idx with
        | none => .unwritten
        | some v => (scanPixels pk pal bpp palLen left (p + 1) c').cons v

/-- The scan of a whole bitmap: the cursor starts at byte 0 with 8 unread bits (rule R123). -/
def scan (s : State) : ScanResult :=
  scanPixels s.pk s.pal s.dec.bpp.toNat s.dec.palLen.toNat (s.dec.width.toNat * s.dec.height.toNat) 0 ⟨0, 8⟩

/-- The decoder's result registers after a failed DECODE (rule R128). -/
def Decoder.failed (d : Decoder) (err : ErrCode) (errByte errPix : Word) : Decoder :=
  { d with bufValid := false, bufLen := 0, err := err, errByte := errByte, errPix := errPix }

/-- The decoder's result registers after a DECODE that produced `len` bytes (rule R127). -/
def Decoder.succeeded (d : Decoder) (len : Nat) : Decoder :=
  { d with bufValid := true, bufLen := BitVec.ofNat 32 len, err := .ok, errByte := 0, errPix := 0 }

/-- DECODE (rule R120): configuration checks, unwritten-input check, scan, commit, in the order of rule
R229. A ConfigurationError reads and writes no memory (rule R121, assumption 9); a failed scan leaves `PX`
unspecified (rule R128, assumption 8). -/
def execDecode (s : State) : Outcome :=
  if s.dec.inconsistent s.cfg then
    answer .configurationError (s.setDec (s.dec.failed .configurationError 0 0))
  else if !(s.pk.filled (streamNeed s.dec.width.toNat s.dec.height.toNat s.dec.bpp.toNat)) then
    refuse .unwritten s
  else match scan s with
    | .unwritten => refuse .unwritten s
    | .outOfRange bytePos pixIdx =>
      let b : Word := BitVec.ofNat 32 bytePos
      let p : Word := BitVec.ofNat 32 pixIdx
      answer (.paletteIndexOutOfRange b p) ((s.setDec (s.dec.failed .paletteIndexOutOfRange b p)).loosePx)
    | .done out =>
      answer (.ok []) ((s.setDec (s.dec.succeeded out.length)).setPx (s.px.writeAll 0 out))

end Sys2Proof.Machine
end

