-- ==== Sys2Proof/Machine/Motion.lean ====
section
/-! DEFINITION. The motion engine's commands CONSTRUCT, RECENTER, SETDIR, SETTGT, SETTGTA, ATTGT and
ADVANCE (41_motion.md rules R150 to R185). All arithmetic is exact over the integers (00_scope.md rule R9). -/

namespace Sys2Proof.Machine

/-! ### Construction and placement -/

/-- CONSTRUCT (rule R152). -/
def execConstruct (e : EngineId) (s : State) : Outcome :=
  let m := s.engine e
  if m.configured then refuse .alreadyConstructed s
  else if m.zeroGeometry then
    answer .configurationError (s.setEngine e { m with err := .configurationError })
  else
    answer (.ok []) (s.setEngine e
      { m with configured := true, posValid := false, prevValid := false, err := .ok })

/-- The engine as RECENTER places it at `(cx, cy)` (rule R155). -/
def Engine.placedAt (m : Engine) (cx cy : Int) : Engine :=
  { m with
    posX := some (word cx), posY := some (word cy)
    tgtX := some (word cx), tgtY := some (word cy)
    dirH := some .stop, dirV := some .stop
    posValid := true, err := .ok }

/-- RECENTER (rule R155). The centre always fits `s32` (same rule), so there is nothing to refuse. -/
def execRecenter (e : EngineId) (s : State) : Outcome :=
  let m := s.engine e
  if !m.configured then refuse .notConstructed s
  else if m.zeroGeometry then
    answer .configurationError (s.setEngine e { m with err := .configurationError })
  else
    answer (.ok []) (s.setEngine e
      (m.placedAt (s.cfg.center (u32 m.dspW) (u32 m.sprW)) (s.cfg.center (u32 m.dspH) (u32 m.sprH))))

/-! ### Direction and target -/

/-- SETDIR (rule R158): the sign of each operand. -/
def execSetdir (e : EngineId) (h v : Word) (s : State) : Outcome :=
  let m := s.engine e
  match m.notReady with
  | some r => refuse r s
  | none => answer (.ok []) (s.setEngine e { m with dirH := some (sgn (s32 h)), dirV := some (sgn (s32 v)) })

/-- SETTGT (rule R160): no range check. -/
def execSettgt (e : EngineId) (x y : Word) (s : State) : Outcome :=
  let m := s.engine e
  match m.notReady with
  | some r => refuse r s
  | none => answer (.ok []) (s.setEngine e { m with tgtX := some x, tgtY := some y })

/-- The engine after a target update (rules R162, R165): the target on each changed axis, then both
directions from the position to the target as just updated. -/
def Engine.aimed (m : Engine) (chX chY : Bool) (mx my px py tx ty : Int) : Engine :=
  let tx' := if chX then mx else tx
  let ty' := if chY then my else ty
  { m with
    tgtX := if chX then some (word mx) else m.tgtX
    tgtY := if chY then some (word my) else m.tgtY
    dirH := some (sgn (tx' - px))
    dirV := some (sgn (ty' - py)) }

/-- SETTGTA (rules R162 to R166). -/
def execSettgta (e : EngineId) (rawX rawY rangeMax : Word) (s : State) : Outcome :=
  let m := s.engine e
  match m.notReady with
  | some r => refuse r s
  | none =>
    match readPoint m.posX m.posY, readPoint m.tgtX m.tgtY with
    | some (px, py), some (tx, ty) =>
      if rangeMax.toNat = 0 ∨ rangeMax.toNat < rawX.toNat ∨ rangeMax.toNat < rawY.toNat then
        refuse .domain s
      else
        let mx := s.cfg.analogMap (u32 rawX) (u32 m.dspW - u32 m.sprW) (u32 rangeMax)
        let my := s.cfg.analogMap (u32 rawY) (u32 m.dspH - u32 m.sprH) (u32 rangeMax)
        if !(fitsS32 mx && fitsS32 my) then refuse .overflow s
        else
          let chX := s.cfg.outsideJitter mx tx (u32 m.jitTol)
          let chY := s.cfg.outsideJitter my ty (u32 m.jitTol)
          if !chX && !chY then answer (.ok []) s
          else answer (.ok []) (s.setEngine e (m.aimed chX chY mx my px py tx ty))
    | _, _ => refuse .unwritten s

/-- ATTGT (rule R168): exact equality on both axes. -/
def execAttgt (e : EngineId) (s : State) : Outcome :=
  let m := s.engine e
  match m.notReady with
  | some r => refuse r s
  | none =>
    match readPoint m.posX m.posY, readPoint m.tgtX m.tgtY with
    | some (px, py), some (tx, ty) => answer (.flag (decide (px = tx ∧ py = ty))) s
    | _, _ => refuse .unwritten s

/-! ### The tick -/

/-- Steps 1 and 2 of ADVANCE on one axis (rules R171, R172): `stopped` says that `stopAtTarget` is set and
the coordinate equals the target. -/
def tickDir (c : Config) (stopped : Bool) (d : Dir) (pos step sprite display : Int) : Dir :=
  if stopped then .stop
  else match d with
    | .stop => .stop
    | .positive => if display ≤ pos + step + sprite then .negative else .positive
    | .negative => if c.atLowEdge (pos - step) then .positive else .negative

/-- Step 3 of ADVANCE on one axis (rule R173). -/
def tickPos (d : Dir) (pos step : Int) : Int := pos + d.toInt * step

/-- A rectangle before it is narrowed to its response words (rule R174). -/
structure Strip where
  x : Int
  y : Int
  w : Int
  h : Int
  deriving DecidableEq, Repr

/-- The vertical strip of the old footprint at `(qx, qy)` (rule R175). -/
def verticalStrip (d : Dir) (qx qy sx sw sh : Int) : Strip :=
  ⟨if d = .positive then qx else qx + sw - sx, qy, sx, sh⟩

/-- The horizontal strip of the old footprint at `(qx, qy)`, `sy + 1` high (rule R177). -/
def horizontalStrip (d : Dir) (qx qy sy sw sh : Int) : Strip :=
  ⟨qx, if d = .positive then qy else qy + sh - (sy + 1), sw, sy + 1⟩

/-- `x`, `y` fit `s32` and `w`, `h` fit `u32` (rules R170, R179). -/
def Strip.fits (r : Strip) : Bool := fitsS32 r.x && fitsS32 r.y && fitsU32 r.w && fitsU32 r.h

/-- The strip's response words (rule R102). -/
def Strip.toRect (r : Strip) : Rect := ⟨word r.x, word r.y, word r.w, word r.h⟩

/-- An absent strip fits. -/
def stripFits : Option Strip → Bool
  | none => true
  | some r => r.fits

/-- What one tick computes, before the overflow check and the commit (rule R170). -/
structure Tick where
  posX : Int
  posY : Int
  dirH : Dir
  dirV : Dir
  vertical : Option Strip
  horizontal : Option Strip
  deriving DecidableEq, Repr

/-- The computation of ADVANCE on position `(px, py)` and directions `(hd, vd)` (rules R170 to R177);
`stopX` and `stopY` say where step 1 applies. A strip is emitted for an axis whose coordinate changed
(rule R176). -/
def Engine.tick (m : Engine) (c : Config) (stopX stopY : Bool) (px py : Int) (hd vd : Dir) : Tick :=
  let hd' := tickDir c stopX hd px (u32 m.stepX) (u32 m.sprW) (u32 m.dspW)
  let vd' := tickDir c stopY vd py (u32 m.stepY) (u32 m.sprH) (u32 m.dspH)
  let px' := tickPos hd' px (u32 m.stepX)
  let py' := tickPos vd' py (u32 m.stepY)
  { posX := px'
    posY := py'
    dirH := hd'
    dirV := vd'
    vertical :=
      if px' ≠ px then some (verticalStrip hd' px py (u32 m.stepX) (u32 m.sprW) (u32 m.sprH)) else none
    horizontal :=
      if py' ≠ py then some (horizontalStrip vd' px py (u32 m.stepY) (u32 m.sprW) (u32 m.sprH)) else none }

/-- Whether everything a tick stores or returns fits its words (rules R170, R179; assumption 12). -/
def Tick.fits (t : Tick) : Bool :=
  fitsS32 t.posX && fitsS32 t.posY && stripFits t.vertical && stripFits t.horizontal

/-- The engine after a tick from position `(px, py)` (rule R170, commit). -/
def Engine.ticked (m : Engine) (px py : Int) (t : Tick) : Engine :=
  { m with
    prevX := some (word px), prevY := some (word py), prevValid := true
    dirH := some t.dirH, dirV := some t.dirV
    posX := some (word t.posX), posY := some (word t.posY) }

/-- Ends an ADVANCE: refused when something does not fit, otherwise committed and answered (rules R170,
R179, R183). -/
def commitTick (e : EngineId) (px py : Int) (t : Tick) (s : State) : Outcome :=
  if !t.fits then refuse .overflow s
  else
    answer (.moved (word t.posX) (word t.posY) (t.vertical.map Strip.toRect) (t.horizontal.map Strip.toRect))
      (s.setEngine e ((s.engine e).ticked px py t))

/-- ADVANCE (rule R170). With `S` = 0 the target is not read at all (rule R171). -/
def execAdvance (e : EngineId) (stopAtTarget : Bool) (s : State) : Outcome :=
  let m := s.engine e
  match m.notReady with
  | some r => refuse r s
  | none =>
    match readPoint m.posX m.posY, readDirs m.dirH m.dirV with
    | some (px, py), some (hd, vd) =>
      if stopAtTarget then
        match readPoint m.tgtX m.tgtY with
        | none => refuse .unwritten s
        | some (tx, ty) =>
          commitTick e px py (m.tick s.cfg (decide (px = tx)) (decide (py = ty)) px py hd vd) s
      else commitTick e px py (m.tick s.cfg false false px py hd vd) s
    | _, _ => refuse .unwritten s

end Sys2Proof.Machine
end

