-- ==== Sys2Proof/Machine/Dispatch.lean ====
section
/-! DEFINITION. One arm per command, each one call of that command's meaning. -/

namespace Sys2Proof.Machine

def exec (i : Instr) (s : State) : Host.Outcome State Fault Refusal :=
  match i with
  | .wrreg eng reg value => Sys2Proof.Machine.execWrreg eng reg value s
  | .rdreg eng reg => Sys2Proof.Machine.execRdreg eng reg s
  | .wrpal index value => Sys2Proof.Machine.execWrpal index value s
  | .wrpk addr value => Sys2Proof.Machine.execWrpk addr value s
  | .rdpx addr => Sys2Proof.Machine.execRdpx addr s
  | .decode => Sys2Proof.Machine.execDecode s
  | .construct eng => Sys2Proof.Machine.execConstruct eng s
  | .recenter eng => Sys2Proof.Machine.execRecenter eng s
  | .setdir eng h v => Sys2Proof.Machine.execSetdir eng h v s
  | .settgt eng x y => Sys2Proof.Machine.execSettgt eng x y s
  | .settgta eng rawX rawY rangeMax => Sys2Proof.Machine.execSettgta eng rawX rawY rangeMax s
  | .attgt eng => Sys2Proof.Machine.execAttgt eng s
  | .advance eng stopAtTarget => Sys2Proof.Machine.execAdvance eng stopAtTarget s

end Sys2Proof.Machine
end

