-- ==== Sys2Proof/Machine/Step.lean ====
section
/-! DEFINITION. One step of the block: it takes the oldest packet from the command port and executes it
atomically (20_memory.md rules R71, R73); with no packet it waits (10_state.md rule R27). -/

namespace Sys2Proof.Machine

/-- One step. No packet: the block holds its state unchanged (60_exceptions.md rule R248; assumption 2).
An illegal packet is refused (30_encoding.md rule R96); any other is executed. -/
def step (s : State) : Host.Outcome State Fault Refusal :=
  match s.takePacket with
  | none => .next s
  | some (p, s') =>
    match decodePacket p with
    | .error _ => refuse .illegal s'
    | .ok i => exec i s'

/-- `s` with the packet of an opcode-table word at the head of the command port, where `step` takes its
next command (assumption 3). -/
def State.withFetchWord (s : State) (nbits w : Nat) : State :=
  { s with port := packetOfTableWord nbits w :: s.port }

end Sys2Proof.Machine
end

