-- ==== Sys2Proof/Safety.lean ====
section
/-! DEFINITION. The terms claims use: the invariant of the block's state, a run inside the documented
domains, the packed stream in the closed form of 40_decoder.md rule R122, the footprint geometry of
00_scope.md rule R19, and the inputs a DECODE depends on (rule R120). -/

namespace Sys2Proof.Machine

/-! ### The invariant -/

/-- What holds of an engine in every state: POS, TGT and DIR hold values exactly when `POS_VALID` = 1
(10_state.md rules R21 to R23), PREV exactly when `PREV_VALID` = 1 (rule R24); the flags are set in the
order of rule R30; a constructed engine has no zero dimension (rule R41); no engine command latches code 1
(rule R45). -/
structure Engine.Inv (m : Engine) : Prop where
  posX : m.posX.isSome = m.posValid
  posY : m.posY.isSome = m.posValid
  tgtX : m.tgtX.isSome = m.posValid
  tgtY : m.tgtY.isSome = m.posValid
  dirH : m.dirH.isSome = m.posValid
  dirV : m.dirV.isSome = m.posValid
  prevX : m.prevX.isSome = m.prevValid
  prevY : m.prevY.isSome = m.prevValid
  placed : m.posValid = true → m.configured = true
  advanced : m.prevValid = true → m.posValid = true
  geometry : m.configured = true → m.zeroGeometry = false
  err : m.err ≠ .paletteIndexOutOfRange

/-- What holds of the decoder's result registers and of `PX`: `BUF_LEN` is 0 without a valid buffer
(rule R39) and an even number within `PX_CAP` with one, whose cells all hold values (rules R29, R52); the
latched positions are 0 unless `DEC.ERR` = 1 (rule R38); a valid buffer stands beside `DEC.ERR` = 0
(rule R127). -/
structure Decoder.Inv (d : Decoder) (px : Memory 8) (cap : Nat) : Prop where
  empty : d.bufValid = false → d.bufLen = 0
  ok : d.bufValid = true → d.err = .ok
  even : d.bufLen.toNat % 2 = 0
  fits : d.bufLen.toNat ≤ cap
  filled : d.bufValid = true → ∀ a, a < d.bufLen.toNat → (px.read a).isSome = true
  positions : d.err ≠ .paletteIndexOutOfRange → d.errByte = 0 ∧ d.errPix = 0

/-- The invariant of the block: every memory in canonical form within its capacity (rules R50 to R52), the
decoder's and both engines' registers coherent, under parameters within rule R8's bounds. -/
structure State.Inv (s : State) : Prop where
  cfg : s.cfg.wf = true
  pkWf : s.pk.wf
  palWf : s.pal.wf
  pxWf : s.px.wf
  pkWithin : s.pk.within s.cfg.pkCap
  palWithin : s.pal.within palDepth
  pxWithin : s.px.within s.cfg.pxCap
  dec : s.dec.Inv s.px s.cfg.pxCap
  me0 : s.me0.Inv
  me1 : s.me1.Inv

/-- A run so far inside every documented domain: nothing was refused (60_exceptions.md rule R228). -/
abbrev State.inDomain (s : State) : Prop := s.runRefused = none

/-! ### Ends of a command, by their response words (30_encoding.md rules R101 to R103) -/

/-- The state with a response delivered that is not a refusal. -/
def State.respond (s : State) (status : Word) (data : List Word) : State :=
  { s with response := some ⟨status, data⟩ }

/-- The state with the response OK and its data words: status word 0x00000000. -/
def State.okWith (s : State) (data : List Word) : State := { s with response := some ⟨0x00000000, data⟩ }

/-- The state with the response ConfigurationError: status word 0x00000002, no data words. -/
def State.configError (s : State) : State := { s with response := some ⟨0x00000002, []⟩ }

/-- The state with the response Refused, status word 0x00000003 and no data words, and the run marked with
the first reason (60_exceptions.md rule R228, assumption 5). -/
def State.refusedFor (s : State) (r : RefuseReason) : State :=
  { s with response := some ⟨0x00000003, []⟩, runRefused := some (s.runRefused.getD r) }

/-- The outcome code of a response, `ERR` in bits 7 to 0 of its status word (rule R101). -/
def Response.code (r : Response) : Nat := r.status.toNat % 256

/-- The precondition of SETDIR, SETTGT, SETTGTA, ATTGT and ADVANCE on engine `e` (41_motion.md rule R151): the
command `i` is refused while the engine is not constructed, and while it is constructed but not placed. -/
def refusesUnlessPlaced (i : Instr) (e : EngineId) (s : State) : Prop :=
  ((s.engine e).configured = false → exec i s = .next (s.refusedFor .notConstructed))
    ∧ ((s.engine e).configured = true → (s.engine e).posValid = false →
        exec i s = .next (s.refusedFor .unwritten))

/-- The field `ENG` of a header (30_encoding.md rule R91). -/
def engBits (e : EngineId) : Word := e.bit.setWidth 32 <<< 16

/-- The number of data words of a response, by the command and the outcome (rules R102, R103); `RV` and
`RH` are bits 16 and 17 of the status word. -/
def dataLength (i : Instr) (status : Word) : Nat :=
  if status.toNat % 256 = 1 then 2
  else if status.toNat % 256 ≠ 0 then 0
  else match i with
    | .rdreg _ _ => 1
    | .rdpx _ => 1
    | .advance _ _ =>
      2 + (if status.getLsbD 16 then 4 else 0) + (if status.getLsbD 17 then 4 else 0)
    | .wrreg _ _ _ | .wrpal _ _ | .wrpk _ _ | .decode | .construct _ | .recenter _ => 0
    | .setdir _ _ _ | .settgt _ _ _ | .settgta _ _ _ _ | .attgt _ => 0

/-- Two register names of rule R40 name one register: the same name, and the same engine where it is an
engine register. -/
def sameRegister (e : EngineId) (r : Reg) (f : EngineId) (q : Reg) : Prop :=
  q = r ∧ (isDecoderNumber r.number = true ∨ f = e)

/-- `v` fits `s32` (00_scope.md rule R9). -/
abbrev inS32 (v : Int) : Prop := -(2 ^ 31) ≤ v ∧ v < 2 ^ 31

/-! ### The packed stream in closed form -/

/-- Stream bit `g`: bit `7 - (g mod 8)` of `PK[g div 8]` (rule R122); 0 where the byte holds no value. -/
def streamBit (pk : Memory 8) (g : Nat) : Nat :=
  match pk.read (g / 8) with
  | none => 0
  | some b => b.toNat / 2 ^ (7 - g % 8) % 2

/-- `colorIndex(p)` for `B` bits per pixel (rule R122). -/
def colorIndex (pk : Memory 8) (b p : Nat) : Nat :=
  ∑ k ∈ Finset.range b, streamBit pk (p * b + k) * 2 ^ (b - 1 - k)

/-- The cursor at the top of pixel `p` (rule R123, last sentence). -/
def cursorAt (b p : Nat) : Cursor := ⟨p * b / 8, 8 - p * b % 8⟩

/-! ### A consistent bitmap -/

/-- The bits-per-pixel range has rule R8's value: 1 to 8, not narrowed. -/
abbrev defaultBpp (c : Config) : Prop := c.bppMin = 1 ∧ c.bppMax = 8 ∧ c.bppDivisorsOnly = false

/-- None of the conditions (a) to (f) of 40_decoder.md rule R121 holds, for `B` in 1 to 8. -/
abbrev Decoder.consistent (d : Decoder) (c : Config) : Prop :=
  d.width.toNat ≠ 0 ∧ d.height.toNat ≠ 0
    ∧ 1 ≤ d.bpp.toNat ∧ d.bpp.toNat ≤ 8
    ∧ d.palLen.toNat ≤ 256
    ∧ 2 * (d.width.toNat * d.height.toNat) ≤ min c.pxCap (2 ^ 32 - 2)
    ∧ d.pkLen.toNat ≤ c.pkCap
    ∧ (d.width.toNat * d.height.toNat * d.bpp.toNat + 7) / 8 ≤ d.pkLen.toNat

/-- The pixels of the bitmap, `W * H`. -/
def State.pixels (s : State) : Nat := s.dec.width.toNat * s.dec.height.toNat

/-- Every stream byte the bitmap needs holds a value (rule R129). -/
abbrev State.streamWritten (s : State) : Prop :=
  ∀ a, a < (s.pixels * s.dec.bpp.toNat + 7) / 8 → (s.pk.read a).isSome = true

/-- The colour index of pixel `p` of the bitmap (rule R122). -/
def State.indexAt (s : State) (p : Nat) : Nat := colorIndex s.pk s.dec.bpp.toNat p

/-- Pixel `p` decodes: its index is in the palette and that palette cell holds a value. -/
abbrev State.pixelOk (s : State) (p : Nat) : Prop :=
  s.indexAt p < s.dec.palLen.toNat ∧ (s.pal.read (s.indexAt p)).isSome = true

/-! ### Geometry -/

/-- Whether column `c` and row `r` lie in the rectangle `(x, y, w, h)` (rules R19, R174). -/
def covers (x y w h c r : Int) : Prop := x ≤ c ∧ c < x + w ∧ y ≤ r ∧ r < y + h

/-- Whether an emitted strip covers a point. -/
def Strip.covers (t : Option Strip) (c r : Int) : Prop :=
  ∃ k, t = some k ∧ Sys2Proof.Machine.covers k.x k.y k.w k.h c r

/-! ### What DECODE depends on -/

/-- Two states hold the same IndexedBitmap (rules R120, R132): `W`, `H`, `B`, `N`, `L`, `PAL[0 .. N-1]`,
`PK[0 .. ceil(W*H*B/8) - 1]`, under the same parameters. -/
structure sameBitmap (s t : State) : Prop where
  cfg : s.cfg = t.cfg
  width : s.dec.width = t.dec.width
  height : s.dec.height = t.dec.height
  bpp : s.dec.bpp = t.dec.bpp
  palLen : s.dec.palLen = t.dec.palLen
  pkLen : s.dec.pkLen = t.dec.pkLen
  palette : ∀ i, i < s.dec.palLen.toNat → s.pal.read i = t.pal.read i
  stream : ∀ a, a < streamNeed s.dec.width.toNat s.dec.height.toNat s.dec.bpp.toNat → s.pk.read a = t.pk.read a

/-- A command of the motion engines and the engine it addresses (10_state.md rule R25). -/
def motionEngineOf : Instr → Option EngineId
  | .construct e => some e
  | .recenter e => some e
  | .setdir e _ _ => some e
  | .settgt e _ _ => some e
  | .settgta e _ _ _ => some e
  | .attgt e => some e
  | .advance e _ => some e
  | .wrreg _ _ _ => none
  | .rdreg _ _ => none
  | .wrpal _ _ => none
  | .wrpk _ _ => none
  | .rdpx _ => none
  | .decode => none

end Sys2Proof.Machine
end

