-- ==== Sys2Proof/Certificates/Slice0/Obligations.lean ====
section
/-! DEFINITION. The statements for the provers. Each docstring names the rule of spec/ it formalises; every
one is about the model's decoder, `exec` or `step`. -/

open Sys2Proof Sys2Proof.Machine

/-! ## Encoding -/

/-- Decoding the packet of a well-formed command gives it back, every operand at every value
(30_encoding.md rules R91 to R95). -/
def Obligations.DecodeOfEncodeIsTheCommand : Prop :=
  ∀ i : Instr, i.wf = true → decodePacket (encode i) = .ok i

/-- A packet that decodes is the packet of what it decodes to, and that command is well formed: no bit of a
legal packet is ignored (rules R91, R93, R95). -/
def Obligations.EncodeOfDecodeIsThePacket : Prop :=
  ∀ (p : Packet) (i : Instr), decodePacket p = .ok i → encode i = p ∧ i.wf = true

/-- "At most one row can match a header" (rule R95, last sentence). -/
def Obligations.AtMostOneRowSelectsAHeader : Prop :=
  ∀ (h : Word) (r q : OpRow), r ∈ opcodeTable → q ∈ opcodeTable →
    r.selects h = true → q.selects h = true → r = q

/-- The example packets of rule R105 decode to the commands their lines spell, at least one of every
family. -/
def Obligations.ExamplePacketsDecodeToTheirCommands : Prop :=
  decodePacket ⟨0x01000000, [0x00000002]⟩ = .ok (.wrreg .e0 0x00 2)
    ∧ decodePacket ⟨0x01012400, [0x00000005]⟩ = .ok (.wrreg .e1 0x24 5)
    ∧ decodePacket ⟨0x02003000, []⟩ = .ok (.rdreg .e0 0x30)
    ∧ decodePacket ⟨0x03000000, [0x00000001, 0x0000F800]⟩ = .ok (.wrpal 1 0xF800)
    ∧ decodePacket ⟨0x04000000, [0x00000000, 0x00000001]⟩ = .ok (.wrpk 0 0x01)
    ∧ decodePacket ⟨0x05000000, [0x00000003]⟩ = .ok (.rdpx 3)
    ∧ decodePacket ⟨0x10000000, []⟩ = .ok .decode
    ∧ decodePacket ⟨0x20000000, []⟩ = .ok (.construct .e0)
    ∧ decodePacket ⟨0x21010000, []⟩ = .ok (.recenter .e1)
    ∧ decodePacket ⟨0x22000000, [0x00000001, 0xFFFFFFFF]⟩ = .ok (.setdir .e0 1 0xFFFFFFFF)
    ∧ decodePacket ⟨0x23000000, [0x00000064, 0x00000096]⟩ = .ok (.settgt .e0 100 150)
    ∧ decodePacket ⟨0x24010000, [0x00008666, 0x00008000, 0x0000FFFF]⟩ = .ok (.settgta .e1 34406 32768 65535)
    ∧ decodePacket ⟨0x25000000, []⟩ = .ok (.attgt .e0)
    ∧ decodePacket ⟨0x26000001, []⟩ = .ok (.advance .e0 true)
    ∧ decodePacket ⟨0x26010000, []⟩ = .ok (.advance .e1 false)

/-- The header words the commands' rules give: opcode, `ENG` << 16, `REG` << 8, `S` (rules R202 to R206,
R120, R152, R155, R158, R160, R162, R168, R170). -/
def Obligations.HeaderWordOfEveryCommand : Prop :=
  ∀ (e : EngineId) (n : BitVec 8) (v w u : Word) (c : Colour) (b : Byte) (stop : Bool),
    let eng := engBits e
    let reg : Word := n.setWidth 32 <<< 8
    (encode (.wrreg e n v)).header = 0x01000000 ||| eng ||| reg
      ∧ (encode (.rdreg e n)).header = 0x02000000 ||| eng ||| reg
      ∧ (encode (.wrpal v c)).header = 0x03000000
      ∧ (encode (.wrpk v b)).header = 0x04000000
      ∧ (encode (.rdpx v)).header = 0x05000000
      ∧ (encode .decode).header = 0x10000000
      ∧ (encode (.construct e)).header = 0x20000000 ||| eng
      ∧ (encode (.recenter e)).header = 0x21000000 ||| eng
      ∧ (encode (.setdir e v w)).header = 0x22000000 ||| eng
      ∧ (encode (.settgt e v w)).header = 0x23000000 ||| eng
      ∧ (encode (.settgta e v w u)).header = 0x24000000 ||| eng
      ∧ (encode (.attgt e)).header = 0x25000000 ||| eng
      ∧ (encode (.advance e stop)).header = 0x26000000 ||| eng ||| (BitVec.ofBool stop).setWidth 32

/-- Every packet that rules R95 and R96 call illegal is answered Refused and changes no state: an
unassigned `OPC`, a non-zero reserved bit, `ENG`, `REG` or `S` non-zero where it must be 0, a wrong operand
count, an over-wide operand, a decoder register with `ENG` = 1. -/
def Obligations.IllegalPacketsAreRefused : Prop :=
  ∀ (p : Packet) (s : State) (rest : List Packet), s.port = p :: rest →
    let opc : BitVec 8 := p.header.extractLsb' 24 8
    let reg : BitVec 8 := p.header.extractLsb' 8 8
    (opc ∉ [0x01#8, 0x02, 0x03, 0x04, 0x05, 0x10, 0x20, 0x21, 0x22, 0x23, 0x24, 0x25, 0x26]
      ∨ p.header.extractLsb' 17 7 ≠ 0
      ∨ p.header.extractLsb' 1 7 ≠ 0
      ∨ (p.header.getLsbD 16 = true ∧ opc ∈ [0x03#8, 0x04, 0x05, 0x10])
      ∨ (reg ≠ 0 ∧ opc ≠ 0x01 ∧ opc ≠ 0x02)
      ∨ (p.header.getLsbD 0 = true ∧ opc ≠ 0x26)
      ∨ (∃ r, findRow p.header = some r ∧ p.operands.length ≠ r.ops)
      ∨ ((opc = 0x01 ∨ opc = 0x02) ∧ reg.toNat < 0x20 ∧ p.header.getLsbD 16 = true)
      ∨ (opc = 0x03 ∧ ∃ i v, p.operands = [i, v] ∧ 2 ^ 16 ≤ v.toNat)
      ∨ (opc = 0x04 ∧ ∃ a v, p.operands = [a, v] ∧ 2 ^ 8 ≤ v.toNat)) →
    step s = .next (({ s with port := rest } : State).refusedFor .illegal)

/-! ## Steps and responses -/

/-- When the packet at the head of the command port decodes to a command, `step` is `exec` of it at the
state whose port holds the packets after it (20_memory.md rule R71). -/
def Obligations.StepRunsTheDecodedCommand : Prop :=
  ∀ (s : State) (p : Packet) (rest : List Packet) (i : Instr),
    s.port = p :: rest → decodePacket p = .ok i → step s = exec i { s with port := rest }

/-- With no packet the block waits and holds its state (10_state.md rule R27, 60_exceptions.md rule R248;
that a wait is a step of the model is assumption 2). -/
def Obligations.StepWithoutAPacketHoldsTheState : Prop :=
  ∀ s : State, s.port = [] → step s = .next s

/-- Every packet, legal or not, is answered by one response before the next is taken: the step takes it
from the port and leaves a status word with code 0 to 3 and reserved bits 0, with `RV`, `RH` and `FLAG` 0
unless the code is 0, `FLAG` only of ATTGT, `RV` and `RH` only of ADVANCE, and as many data words as the
command and the outcome fix (rules R100 to R103). -/
def Obligations.EveryPacketIsAnsweredOnce : Prop :=
  ∀ (s : State) (p : Packet) (rest : List Packet), s.port = p :: rest →
    ∃ (t : State) (r : Response), step s = .next t ∧ t.port = rest ∧ t.response = some r
      ∧ r.code ≤ 3 ∧ r.status &&& 0xFFFCFE00 = 0 ∧ (r.code ≠ 0 → r.status.toNat ≤ 3)
      ∧ (∀ i, decodePacket p = .ok i → r.data.length = dataLength i r.status
          ∧ ((∀ e, i ≠ .attgt e) → r.status.getLsbD 8 = false)
          ∧ ((∀ e b, i ≠ .advance e b) → r.status.getLsbD 16 = false ∧ r.status.getLsbD 17 = false))
      ∧ (∀ d, decodePacket p = .error d → r = ⟨0x00000003, []⟩)

/-- A refused command changes no state: only the response and the run's mark differ; and the mark is set by
a refusal and by nothing else (60_exceptions.md rule R228). -/
def Obligations.RefusedCommandsChangeNothing : Prop :=
  ∀ (i : Instr) (s t : State) (r : Response), exec i s = .next t → t.response = some r →
    (r.code = 3 → r = ⟨0x00000003, []⟩ ∧ t.runRefused.isSome = true
      ∧ t = { s with response := t.response, runRefused := t.runRefused })
    ∧ (t.inDomain ↔ s.inDomain ∧ r.code ≠ 3)

/-! ## Reset and the invariant -/

/-- The state after reset (70_reset_and_hazards.md rule R261). -/
def Obligations.ResetStateIsTheSpecs : Prop :=
  let s := State.reset
  (s.dec.width = 0 ∧ s.dec.height = 0 ∧ s.dec.bpp = 0 ∧ s.dec.palLen = 0 ∧ s.dec.pkLen = 0)
    ∧ (s.dec.statusWord = 0 ∧ s.dec.bufValid = false ∧ s.dec.bufLen = 0)
    ∧ (s.dec.err.toWord = 0 ∧ s.dec.errByte = 0 ∧ s.dec.errPix = 0)
    ∧ (∀ a, s.pk.read a = none ∧ s.pal.read a = none ∧ s.px.read a = none)
    ∧ ∀ e : EngineId,
      let m := s.engine e
      (m.sprW = 0 ∧ m.sprH = 0 ∧ m.dspW = 0 ∧ m.dspH = 0 ∧ m.stepX = 0 ∧ m.stepY = 0 ∧ m.jitTol = 0)
        ∧ (m.statusWord = 0 ∧ m.configured = false ∧ m.posValid = false ∧ m.prevValid = false)
        ∧ m.err.toWord = 0
        ∧ (m.posX = none ∧ m.posY = none ∧ m.tgtX = none ∧ m.tgtY = none ∧ m.dirH = none ∧ m.dirV = none
          ∧ m.prevX = none ∧ m.prevY = none)

/-- The invariant holds after reset. -/
def Obligations.ResetMeetsTheInvariant : Prop := State.reset.Inv

/-- Every step keeps the invariant, from every state that meets it. -/
def Obligations.StepKeepsTheInvariant : Prop :=
  ∀ s t : State, s.Inv → step s = .next t → t.Inv

/-- What each command does directly after reset (rule R264). -/
def Obligations.FirstCommandAfterReset : Prop :=
  (exec .decode State.reset
      = .next (State.reset.setDec { Decoder.reset with err := .configurationError }).configError)
    ∧ (∀ e, exec (.construct e) State.reset
        = .next (State.reset.setEngine e { Engine.reset with err := .configurationError }).configError)
    ∧ (∀ e x y z stop,
        exec (.recenter e) State.reset = .next (State.reset.refusedFor .notConstructed)
          ∧ exec (.setdir e x y) State.reset = .next (State.reset.refusedFor .notConstructed)
          ∧ exec (.settgt e x y) State.reset = .next (State.reset.refusedFor .notConstructed)
          ∧ exec (.settgta e x y z) State.reset = .next (State.reset.refusedFor .notConstructed)
          ∧ exec (.attgt e) State.reset = .next (State.reset.refusedFor .notConstructed)
          ∧ exec (.advance e stop) State.reset = .next (State.reset.refusedFor .notConstructed))
    ∧ (∀ a, exec (.rdpx a) State.reset = .next (State.reset.refusedFor .noBuffer))
    ∧ (∀ (e : EngineId) (r : Reg), (Instr.rdreg e r.number).wf = true →
        exec (.rdreg e r.number) State.reset
          = .next (if r ∈ [.posX, .posY, .tgtX, .tgtY, .dirH, .dirV, .prevX, .prevY]
              then State.reset.refusedFor .unwritten else State.reset.okWith [0]))
    ∧ (∀ (e : EngineId) (r : Reg) (v : Word), (Instr.wrreg e r.number v).wf = true → r.access ≠ .readOnly →
        ∃ t, exec (.wrreg e r.number v) State.reset = .next t ∧ t.readReg e r = some v
          ∧ t.response = some ⟨0x00000000, []⟩)
    ∧ (∀ (i : Word) (c : Colour), i.toNat < 256 →
        ∃ t, exec (.wrpal i c) State.reset = .next t ∧ t.pal.read i.toNat = some c
          ∧ t.response = some ⟨0x00000000, []⟩)
    ∧ (∀ (a : Word) (b : Byte),
        ∃ t, exec (.wrpk a b) State.reset = .next t ∧ t.pk.read a.toNat = some b
          ∧ t.response = some ⟨0x00000000, []⟩)

/-! ## The register map and the access commands -/

/-- The register map: every row's number and access, and no register at any other number (10_state.md rules
R40, R46). -/
def Obligations.RegisterMapOfTheBlock : Prop :=
  (Reg.all.map fun r => (r.number.toNat, r.access))
      = [(0x00, .readWrite), (0x01, .readWrite), (0x02, .readWrite), (0x03, .readWrite), (0x04, .readWrite),
         (0x08, .readOnly), (0x09, .readOnly), (0x0A, .readOnly), (0x0B, .readOnly), (0x0C, .readOnly),
         (0x20, .untilConstruct), (0x21, .untilConstruct), (0x22, .untilConstruct), (0x23, .untilConstruct),
         (0x24, .readWrite), (0x25, .readWrite), (0x26, .readWrite),
         (0x30, .readOnly), (0x31, .readOnly), (0x32, .readOnly), (0x33, .readOnly), (0x34, .readOnly),
         (0x35, .readOnly), (0x36, .readOnly), (0x37, .readOnly), (0x38, .readOnly), (0x39, .readOnly)]
    ∧ (∀ r : Reg, Reg.ofNumber r.number = some r)
    ∧ ∀ n : BitVec 8, (∀ r : Reg, r.number ≠ n) → Reg.ofNumber n = none

/-- WRREG (42_access.md rule R202): its packet, the refusals in their order, otherwise the register addressed
reads back as the very word written (10_state.md rule R47), every other register and every memory as before. -/
def Obligations.WrregStoresTheValue : Prop :=
  ∀ (e : EngineId) (n : BitVec 8) (v : Word) (s : State), (Instr.wrreg e n v).wf = true →
    encode (.wrreg e n v) = ⟨0x01000000 ||| engBits e ||| n.setWidth 32 <<< 8, [v]⟩
    ∧ ((∀ r : Reg, r.number ≠ n) → exec (.wrreg e n v) s = .next (s.refusedFor .noSuchRegister))
    ∧ ∀ r : Reg, r.number = n →
      if r.access = .readOnly then exec (.wrreg e n v) s = .next (s.refusedFor .readOnly)
      else if r.access = .untilConstruct ∧ (s.engine e).configured = true then
        exec (.wrreg e n v) s = .next (s.refusedFor .locked)
      else ∃ t, exec (.wrreg e n v) s = .next t
        ∧ t.readReg e r = some v
        ∧ (∀ f q, ¬ sameRegister e r f q → t.readReg f q = s.readReg f q)
        ∧ (∀ a, t.pk.read a = s.pk.read a ∧ t.pal.read a = s.pal.read a ∧ t.px.read a = s.px.read a)
        ∧ t.cfg = s.cfg ∧ t.port = s.port ∧ t.runRefused = s.runRefused ∧ t.freeDraws = s.freeDraws
        ∧ t.response = some ⟨0x00000000, []⟩

/-- RDREG (rule R203): its packet, the refusals, otherwise the register's value, and no state changes; a
direction is the word 0x00000000, 0x00000001 or 0xFFFFFFFF and a status register's other bits are 0. -/
def Obligations.RdregReturnsTheRegister : Prop :=
  ∀ (e : EngineId) (n : BitVec 8) (s : State), (Instr.rdreg e n).wf = true →
    encode (.rdreg e n) = ⟨0x02000000 ||| engBits e ||| n.setWidth 32 <<< 8, []⟩
    ∧ (∀ d : Dir, (s.engine e).dirH = some d → s.readReg e .dirH
        = some (match d with | .stop => 0x00000000 | .positive => 0x00000001 | .negative => 0xFFFFFFFF))
    ∧ (∀ d : Dir, (s.engine e).dirV = some d → s.readReg e .dirV
        = some (match d with | .stop => 0x00000000 | .positive => 0x00000001 | .negative => 0xFFFFFFFF))
    ∧ (∀ w, s.readReg e .decStatus = some w → w.toNat < 2) ∧ (∀ w, s.readReg e .meStatus = some w → w.toNat < 8)
    ∧ ((∀ r : Reg, r.number ≠ n) → exec (.rdreg e n) s = .next (s.refusedFor .noSuchRegister))
    ∧ ∀ r : Reg, r.number = n →
      (s.readReg e r = none → exec (.rdreg e n) s = .next (s.refusedFor .unwritten))
      ∧ ∀ v, s.readReg e r = some v → exec (.rdreg e n) s = .next (s.okWith [v])

/-- The word RDREG returns for each row of 10_state.md rule R40, by the field the operations use. The decoder's
configuration and result registers, the geometry, steps and tolerance are the fields as they stand; POS, TGT and
PREV are the fields, holding `none` or a word. `DEC.STATUS` and `ME.STATUS` have their flags in place and every
other bit 0, the codes are 0, 1 and 2, and the directions 0x00000000, 0x00000001 and 0xFFFFFFFF, or `none`
(rules R21 to R24, R32 to R39, R41 to R45). -/
def Obligations.ReadBackOfFlagsCodesAndDirections : Prop :=
  ∀ (s : State) (e : EngineId),
    let m := s.engine e
    (s.readReg e .width = some s.dec.width ∧ s.readReg e .height = some s.dec.height
      ∧ s.readReg e .bpp = some s.dec.bpp ∧ s.readReg e .palLen = some s.dec.palLen
      ∧ s.readReg e .pkLen = some s.dec.pkLen)
    ∧ (s.readReg e .decStatus = some (if s.dec.bufValid then 1 else 0)
      ∧ (s.dec.err = .ok → s.readReg e .decErr = some 0)
      ∧ (s.dec.err = .paletteIndexOutOfRange → s.readReg e .decErr = some 1)
      ∧ (s.dec.err = .configurationError → s.readReg e .decErr = some 2)
      ∧ s.readReg e .errByte = some s.dec.errByte ∧ s.readReg e .errPix = some s.dec.errPix
      ∧ s.readReg e .bufLen = some s.dec.bufLen)
    ∧ (s.readReg e .sprW = some m.sprW ∧ s.readReg e .sprH = some m.sprH
      ∧ s.readReg e .dspW = some m.dspW ∧ s.readReg e .dspH = some m.dspH
      ∧ s.readReg e .stepX = some m.stepX ∧ s.readReg e .stepY = some m.stepY
      ∧ s.readReg e .jitTol = some m.jitTol)
    ∧ (s.readReg e .posX = m.posX ∧ s.readReg e .posY = m.posY
      ∧ s.readReg e .tgtX = m.tgtX ∧ s.readReg e .tgtY = m.tgtY
      ∧ s.readReg e .prevX = m.prevX ∧ s.readReg e .prevY = m.prevY)
    ∧ (∀ (r : Reg) (d : Option Dir), (r = .dirH ∧ m.dirH = d) ∨ (r = .dirV ∧ m.dirV = d) →
        s.readReg e r = match d with
          | none => none
          | some .stop => some 0x00000000
          | some .positive => some 0x00000001
          | some .negative => some 0xFFFFFFFF)
    ∧ (s.readReg e .meStatus = some ((if m.configured then 1 else 0) + (if m.posValid then 2 else 0)
          + (if m.prevValid then 4 else 0))
      ∧ (∀ i, 3 ≤ i → m.statusWord.getLsbD i = false)
      ∧ (m.err = .ok → s.readReg e .meErr = some 0)
      ∧ (m.err = .configurationError → s.readReg e .meErr = some 2))

/-- WRPAL (rule R204): an index of 256 or more is refused; otherwise that cell holds the value and every
other cell of `PAL` is as before, nothing else changes. -/
def Obligations.WrpalLoadsOneEntry : Prop :=
  ∀ (i : Word) (v : Colour) (s : State),
    encode (.wrpal i v) = ⟨0x03000000, [i, v.setWidth 32]⟩
    ∧ (256 ≤ i.toNat → exec (.wrpal i v) s = .next (s.refusedFor .address))
    ∧ (i.toNat < 256 → ∃ pal', exec (.wrpal i v) s = .next (State.okWith { s with pal := pal' } [])
        ∧ pal'.read i.toNat = some v ∧ ∀ a, a ≠ i.toNat → pal'.read a = s.pal.read a)

/-- WRPK (rule R205): an address at or above `PK_CAP` is refused; otherwise that byte holds the value and
every other byte of `PK` is as before, nothing else changes. -/
def Obligations.WrpkLoadsOneByte : Prop :=
  ∀ (a : Word) (v : Byte) (s : State),
    encode (.wrpk a v) = ⟨0x04000000, [a, v.setWidth 32]⟩
    ∧ (s.cfg.pkCap ≤ a.toNat → exec (.wrpk a v) s = .next (s.refusedFor .address))
    ∧ (a.toNat < s.cfg.pkCap → ∃ pk', exec (.wrpk a v) s = .next (State.okWith { s with pk := pk' } [])
        ∧ pk'.read a.toNat = some v ∧ ∀ b, b ≠ a.toNat → pk'.read b = s.pk.read b)

/-- RDPX (rule R206): refused without a valid buffer or at or above `BUF_LEN`; otherwise the byte, and no
state changes. -/
def Obligations.RdpxReturnsOneByte : Prop :=
  ∀ (a : Word) (s : State),
    encode (.rdpx a) = ⟨0x05000000, [a]⟩
    ∧ (s.dec.bufValid = false → exec (.rdpx a) s = .next (s.refusedFor .noBuffer))
    ∧ (s.dec.bufValid = true → s.dec.bufLen.toNat ≤ a.toNat → exec (.rdpx a) s = .next (s.refusedFor .address))
    ∧ ∀ b, s.dec.bufValid = true → a.toNat < s.dec.bufLen.toNat → s.px.read a.toNat = some b →
        exec (.rdpx a) s = .next (s.okWith [b.setWidth 32])

/-- In every state that meets the invariant RDPX below `BUF_LEN` of a valid buffer completes with one byte
(rules R29, R206): no byte of a valid buffer is unwritten. -/
def Obligations.ValidBufferIsReadable : Prop :=
  ∀ (a : Word) (s : State), s.Inv → s.dec.bufValid = true → a.toNat < s.dec.bufLen.toNat →
    ∃ b : Byte, s.px.read a.toNat = some b ∧ exec (.rdpx a) s = .next (s.okWith [b.setWidth 32])

/-- Frame of the five access commands (rule R200): the outcome is OK or a refusal; no buffer, result or error
register, no engine flag, position, target, direction or previous position changes; `PX` does not change;
`PK` changes only at WRPK's address, `PAL` only at WRPAL's index, and a register only if WRREG addresses it. -/
def Obligations.AccessCommandsFrame : Prop :=
  ∀ (i : Instr) (s t : State), motionEngineOf i = none → i ≠ .decode → exec i s = .next t →
    (∀ r, t.response = some r → r.code = 0 ∨ r.code = 3)
    ∧ (t.dec.bufValid = s.dec.bufValid ∧ t.dec.bufLen = s.dec.bufLen ∧ t.dec.err = s.dec.err
      ∧ t.dec.errByte = s.dec.errByte ∧ t.dec.errPix = s.dec.errPix)
    ∧ (∀ e : EngineId,
        let m := s.engine e
        let k := t.engine e
        k.configured = m.configured ∧ k.posValid = m.posValid ∧ k.prevValid = m.prevValid ∧ k.err = m.err
          ∧ k.posX = m.posX ∧ k.posY = m.posY ∧ k.tgtX = m.tgtX ∧ k.tgtY = m.tgtY ∧ k.dirH = m.dirH
          ∧ k.dirV = m.dirV ∧ k.prevX = m.prevX ∧ k.prevY = m.prevY)
    ∧ (∀ a, t.px.read a = s.px.read a)
    ∧ (∀ a, (∀ (w : Word) (v : Byte), i = .wrpk w v → w.toNat ≠ a) → t.pk.read a = s.pk.read a)
    ∧ (∀ a, (∀ (w : Word) (v : Colour), i = .wrpal w v → w.toNat ≠ a) → t.pal.read a = s.pal.read a)
    ∧ (∀ (f : EngineId) (q : Reg),
        (∀ e n v, i = .wrreg e n v → q.number ≠ n ∨ (isDecoderNumber n = false ∧ f ≠ e)) →
        t.readReg f q = s.readReg f q)
    ∧ ((∀ e n v, i ≠ .wrreg e n v) → t.dec = s.dec ∧ t.me0 = s.me0 ∧ t.me1 = s.me1)
    ∧ t.cfg = s.cfg ∧ t.port = s.port ∧ t.freeDraws = s.freeDraws

/-! ## DECODE -/

/-- DECODE raises ConfigurationError exactly on the six conditions of 40_decoder.md rule R121, with the
effects of rule R128 on the result registers, and changes nothing else. What `PX` then holds is left open
(rule R128, 93_implementation_defined.md U10). -/
def Obligations.InconsistentBitmapIsAConfigurationError : Prop :=
  ∀ s : State, defaultBpp s.cfg →
    (¬ s.dec.consistent s.cfg →
      ∃ px', exec .decode s = .next (State.configError { s with
        px := px'
        dec := { s.dec with
          bufValid := false, bufLen := 0, err := .configurationError, errByte := 0, errPix := 0 } }))
    ∧ (s.dec.consistent s.cfg → ∀ (t : State) (r : Response),
        exec .decode s = .next t → t.response = some r → r.code ≠ 2)

/-- "The scan of rule R123 computes exactly `colorIndex(p)` of rule R122 for every `p`" (rule R124): from
the cursor at the top of pixel `p` the byte-and-mask loop yields the closed form's index and the cursor at
the top of pixel `p + 1`. -/
def Obligations.ScanComputesTheColorIndex : Prop :=
  ∀ (pk : Memory 8) (b p : Nat), 1 ≤ b → b ≤ 8 →
    (∀ a, p * b / 8 ≤ a → a ≤ (p * b + b - 1) / 8 → (pk.read a).isSome = true) →
    unpackChunk pk b (cursorAt b p) b 0 = some (colorIndex pk b p, cursorAt b (p + 1))
      ∧ colorIndex pk b p < 2 ^ b

/-- The straddling example of rule R133: with `B` = 3 and `PK[0]` = 0b11010010 the indices are 6, 4, and 5 or
4 by bit 7 of `PK[1]`. -/
def Obligations.StraddlingIndicesOfTheExample : Prop :=
  ∀ next : Byte,
    let pk : Memory 8 := [(0, 0b11010010), (1, next)]
    unpackChunk pk 3 ⟨0, 8⟩ 3 0 = some (6, ⟨0, 5⟩)
      ∧ unpackChunk pk 3 ⟨0, 5⟩ 3 0 = some (4, ⟨0, 2⟩)
      ∧ unpackChunk pk 3 ⟨0, 2⟩ 3 0 = some (if next.getLsbD 7 then 5 else 4, ⟨1, 7⟩)

/-- A consistent bitmap whose stream is written and whose every pixel decodes yields the PixelBuffer: pixel
`p`'s palette entry at `PX[2p]` and `PX[2p+1]`, low byte first, `BUF_LEN` = `2*W*H`, `BUF_VALID` = 1, the
error registers 0; `PX` at and above `2*W*H` and everything else as before (rules R122, R126, R127, R135). -/
def Obligations.DecodeProducesThePixelBuffer : Prop :=
  ∀ s : State, defaultBpp s.cfg → s.dec.consistent s.cfg → s.streamWritten →
    (∀ p, p < s.pixels → s.pixelOk p) →
    ∃ px', exec .decode s = .next (State.okWith { s with
        px := px'
        dec := { s.dec with
          bufValid := true, bufLen := BitVec.ofNat 32 (2 * s.pixels), err := .ok, errByte := 0, errPix := 0 } } [])
      ∧ (BitVec.ofNat 32 (2 * s.pixels)).toNat = 2 * s.pixels
      ∧ (∀ p v, p < s.pixels → s.pal.read (s.indexAt p) = some v →
          px'.read (2 * p) = some (v.setWidth 8) ∧ px'.read (2 * p + 1) = some ((v >>> 8).setWidth 8))
      ∧ ∀ a, 2 * s.pixels ≤ a → px'.read a = s.px.read a

/-- The first pixel whose index is at or above `PAL_LEN` fails the decode with its own number and the byte
that holds its chunk's first bit; the buffer is invalidated (rules R125, R128, R222). `PX` is whatever it
is: the statement leaves it open. -/
def Obligations.DecodeReportsTheFirstIndexOutOfRange : Prop :=
  ∀ (s : State) (q : Nat), defaultBpp s.cfg → s.dec.consistent s.cfg → s.streamWritten →
    q < s.pixels → (∀ p, p < q → s.pixelOk p) → s.dec.palLen.toNat ≤ s.indexAt q →
    let byte : Word := BitVec.ofNat 32 (q * s.dec.bpp.toNat / 8)
    let pix : Word := BitVec.ofNat 32 q
    ∃ px' n, exec .decode s = .next { s with
        px := px'
        freeDraws := n
        response := some ⟨0x00000001, [byte, pix]⟩
        dec := { s.dec with
          bufValid := false, bufLen := 0, err := .paletteIndexOutOfRange, errByte := byte, errPix := pix } }
      ∧ byte.toNat = q * s.dec.bpp.toNat / 8 ∧ pix.toNat = q

/-- Unwritten inputs (rule R129): a stream byte the bitmap needs, or a palette cell the scan reaches before
an index out of range, that holds `none` makes DECODE refused, which changes nothing. -/
def Obligations.DecodeRefusesUnwrittenInput : Prop :=
  ∀ s : State, defaultBpp s.cfg → s.dec.consistent s.cfg →
    (¬ s.streamWritten → exec .decode s = .next (s.refusedFor .unwritten))
    ∧ (s.streamWritten → ∀ q, q < s.pixels → (∀ p, p < q → s.pixelOk p) →
        s.indexAt q < s.dec.palLen.toNat → s.pal.read (s.indexAt q) = none →
        exec .decode s = .next (s.refusedFor .unwritten))

/-- Frame of DECODE (rules R120, R127, R128, R130): no engine register, configuration register, stream byte
or palette cell changes; `PX` changes only below `2*W*H` on success, and not at all when the command is
refused; what it holds after an error is left open. -/
def Obligations.DecodeFrame : Prop :=
  ∀ (s t : State) (r : Response), exec .decode s = .next t → t.response = some r →
    (t.me0 = s.me0 ∧ t.me1 = s.me1 ∧ t.cfg = s.cfg ∧ t.port = s.port)
    ∧ (t.dec.width = s.dec.width ∧ t.dec.height = s.dec.height ∧ t.dec.bpp = s.dec.bpp
      ∧ t.dec.palLen = s.dec.palLen ∧ t.dec.pkLen = s.dec.pkLen)
    ∧ (∀ a, t.pk.read a = s.pk.read a ∧ t.pal.read a = s.pal.read a)
    ∧ (r.code = 0 → ∀ a, 2 * s.pixels ≤ a → t.px.read a = s.px.read a)
    ∧ (r.code = 3 → ∀ a, t.px.read a = s.px.read a)

/-- The outcome of DECODE is a function of the bitmap alone (rules R120, R132): two states with the same
bitmap get the same response, and unless it is a refusal the same result registers and, on success, the
same buffer. -/
def Obligations.DecodeDependsOnTheBitmapOnly : Prop :=
  ∀ (s t s' t' : State) (r : Response), sameBitmap s t → exec .decode s = .next s' → exec .decode t = .next t' →
    s'.response = some r →
    t'.response = some r
      ∧ (r.code ≠ 3 → s'.dec.bufValid = t'.dec.bufValid ∧ s'.dec.bufLen = t'.dec.bufLen
          ∧ s'.dec.err = t'.dec.err ∧ s'.dec.errByte = t'.dec.errByte ∧ s'.dec.errPix = t'.dec.errPix)
      ∧ (r.code = 0 → ∀ a, a < 2 * s.pixels → s'.px.read a = t'.px.read a)

/-- Decoding the same bitmap again after a success answers the same and leaves the decoder and the buffer as
they are (rule R132). -/
def Obligations.DecodingAgainGivesTheSameBuffer : Prop :=
  ∀ (s t : State), exec .decode s = .next t → t.response = some ⟨0x00000000, []⟩ →
    ∃ u, exec .decode t = .next u ∧ u.response = some ⟨0x00000000, []⟩ ∧ u.dec = t.dec
      ∧ ∀ a, u.px.read a = t.px.read a

/-- What latches where (10_state.md rules R29, R38, R45; 60_exceptions.md rule R227): `BUF_VALID` and
`DEC.ERR` are written by a DECODE that is not refused, to whether it succeeded and to its code, and by
nothing else; `ME.ERR` likewise by CONSTRUCT and RECENTER. -/
def Obligations.ErrorRegistersDescribeTheLatestCommand : Prop :=
  ∀ (i : Instr) (s t : State) (r : Response), exec i s = .next t → t.response = some r →
    (i = .decode → r.code ≠ 3 → (t.dec.bufValid = true ↔ r.code = 0) ∧ t.dec.err.toWord.toNat = r.code)
    ∧ (i ≠ .decode ∨ r.code = 3 → t.dec.bufValid = s.dec.bufValid ∧ t.dec.err = s.dec.err
        ∧ t.dec.errByte = s.dec.errByte ∧ t.dec.errPix = s.dec.errPix ∧ t.dec.bufLen = s.dec.bufLen)
    ∧ ∀ e : EngineId,
      (i = .construct e ∨ i = .recenter e → r.code ≠ 3 → (t.engine e).err.toWord.toNat = r.code)
      ∧ ((i ≠ .construct e ∧ i ≠ .recenter e) ∨ r.code = 3 → (t.engine e).err = (s.engine e).err)

/-! ## The motion engines -/

/-- The preconditions of the engine commands, in their order (41_motion.md rule R151). -/
def Obligations.EngineCommandsNeedConstructionAndPlacement : Prop :=
  ∀ (e : EngineId) (s : State) (x y z : Word) (stop : Bool),
    let m := s.engine e
    (m.configured = true → exec (.construct e) s = .next (s.refusedFor .alreadyConstructed))
    ∧ (m.configured = false →
        ∀ i ∈ [.recenter e, .setdir e x y, .settgt e x y, .settgta e x y z, .attgt e, .advance e stop],
          exec i s = .next (s.refusedFor .notConstructed))
    ∧ (m.configured = true → m.posValid = false →
        ∀ i ∈ [.setdir e x y, .settgt e x y, .settgta e x y z, .attgt e, .advance e stop],
          exec i s = .next (s.refusedFor .unwritten))

/-- CONSTRUCT (rule R152): its packet; a constructed engine refuses; a zero dimension is a ConfigurationError
that latches code 2 and changes nothing else; otherwise the engine becomes CONFIGURED. -/
def Obligations.ConstructChecksTheGeometry : Prop :=
  ∀ (e : EngineId) (s : State),
    let m := s.engine e
    encode (.construct e) = ⟨0x20000000 ||| engBits e, []⟩
    ∧ if m.configured = true then exec (.construct e) s = .next (s.refusedFor .alreadyConstructed)
    else if m.sprW = 0 ∨ m.sprH = 0 ∨ m.dspW = 0 ∨ m.dspH = 0 then
      exec (.construct e) s = .next (s.setEngine e { m with err := .configurationError }).configError
    else
      exec (.construct e) s = .next ((s.setEngine e
        { m with configured := true, posValid := false, prevValid := false, err := .ok }).okWith [])

/-- RECENTER (rule R155), with the `CENTER_FORMULA` of 00_scope.md rule R8: its packet; an engine not
constructed refuses; a zero dimension latches code 2; otherwise position and target are the floor-divided
centre, which always fits `s32`, both directions STOP, and PREV stays. -/
def Obligations.RecenterPlacesAtTheCentre : Prop :=
  ∀ (e : EngineId) (s : State),
    let m := s.engine e
    s.cfg.centerFormula = .floorOfDifference →
    encode (.recenter e) = ⟨0x21000000 ||| engBits e, []⟩
    ∧ if m.configured = false then exec (.recenter e) s = .next (s.refusedFor .notConstructed)
    else if m.sprW = 0 ∨ m.sprH = 0 ∨ m.dspW = 0 ∨ m.dspH = 0 then
      exec (.recenter e) s = .next (s.setEngine e { m with err := .configurationError }).configError
    else ∃ cx cy : Word,
      s32 cx = ((m.dspW.toNat : Int) - m.sprW.toNat) / 2 ∧ s32 cy = ((m.dspH.toNat : Int) - m.sprH.toNat) / 2
      ∧ exec (.recenter e) s = .next ((s.setEngine e
          { m with
            posX := some cx, posY := some cy, tgtX := some cx, tgtY := some cy
            dirH := some .stop, dirV := some .stop, posValid := true, err := .ok }).okWith [])

/-- RECENTER is idempotent, and ATTGT after it is true (rules R156, R168). -/
def Obligations.RecenterIsIdempotentAndAtTarget : Prop :=
  ∀ (e : EngineId) (s t : State), exec (.recenter e) s = .next t → t.response = some ⟨0x00000000, []⟩ →
    exec (.recenter e) t = .next t
      ∧ exec (.attgt e) t = .next (t.respond 0x00000100 [])

/-- SETDIR (rule R158): its packet, its precondition, and on a placed engine each direction becomes the sign
of its operand, nothing else changes. -/
def Obligations.SetdirStoresTheSigns : Prop :=
  ∀ (e : EngineId) (h v : Word) (s : State),
    let m := s.engine e
    encode (.setdir e h v) = ⟨0x22000000 ||| engBits e, [h, v]⟩
    ∧ refusesUnlessPlaced (.setdir e h v) e s
    ∧ (m.configured = true → m.posValid = true →
    exec (.setdir e h v) s = .next ((s.setEngine e
      { m with
        dirH := some (if h.toInt < 0 then .negative else if h.toInt = 0 then .stop else .positive)
        dirV := some (if v.toInt < 0 then .negative else if v.toInt = 0 then .stop else .positive) }).okWith []))

/-- SETTGT (rule R160): its packet, its precondition, and on a placed engine the target is overwritten, any
pair is legal, nothing else changes. -/
def Obligations.SettgtOverwritesTheTarget : Prop :=
  ∀ (e : EngineId) (x y : Word) (s : State),
    let m := s.engine e
    encode (.settgt e x y) = ⟨0x23000000 ||| engBits e, [x, y]⟩
    ∧ refusesUnlessPlaced (.settgt e x y) e s
    ∧ (m.configured = true → m.posValid = true →
    exec (.settgt e x y) s = .next ((s.setEngine e { m with tgtX := some x, tgtY := some y }).okWith []))

/-- ATTGT (rule R168): its packet, its precondition, and on a placed engine true exactly when both coordinates
equal the target's, by the response's `FLAG` bit; no state changes. -/
def Obligations.AttgtComparesExactly : Prop :=
  ∀ (e : EngineId) (s : State) (px py tx ty : Word),
    let m := s.engine e
    encode (.attgt e) = ⟨0x25000000 ||| engBits e, []⟩
    ∧ refusesUnlessPlaced (.attgt e) e s
    ∧ (m.configured = true → m.posValid = true →
    m.posX = some px → m.posY = some py → m.tgtX = some tx → m.tgtY = some ty →
    exec (.attgt e) s = .next (s.respond (if px = tx ∧ py = ty then 0x00000100 else 0x00000000) []))

/-- SETTGTA (rules R162, R164 to R166), with the rounding and the dead zone of 00_scope.md rule R8: its packet
and precondition; `rangeMax` = 0, a reading above it, and a mapped value that does not fit `s32` are refused; a
no-op when both mapped values lie within the tolerance of the target; otherwise the changed axes take the
mapped value and both directions are recomputed from the position to the target as just updated. -/
def Obligations.SettgtaAimsOutsideTheDeadZone : Prop :=
  ∀ (e : EngineId) (rawX rawY rangeMax : Word) (s : State) (px py tx ty : Word),
    let m := s.engine e
    let i : Instr := .settgta e rawX rawY rangeMax
    let mx : Int := rawX.toNat * ((m.dspW.toNat : Int) - m.sprW.toNat) / rangeMax.toNat
    let my : Int := rawY.toNat * ((m.dspH.toNat : Int) - m.sprH.toNat) / rangeMax.toNat
    let tol : Int := m.jitTol.toNat
    let nx : Int := if tol < |mx - tx.toInt| then mx else tx.toInt
    let ny : Int := if tol < |my - ty.toInt| then my else ty.toInt
    encode i = ⟨0x24000000 ||| engBits e, [rawX, rawY, rangeMax]⟩
    ∧ refusesUnlessPlaced i e s
    ∧ (s.cfg.analogRounding = .floor → s.cfg.jitterInclusive = true → m.configured = true → m.posValid = true →
      m.posX = some px → m.posY = some py → m.tgtX = some tx → m.tgtY = some ty →
      if rangeMax.toNat = 0 ∨ rangeMax.toNat < rawX.toNat ∨ rangeMax.toNat < rawY.toNat then
        exec i s = .next (s.refusedFor .domain)
      else if ¬ (inS32 mx ∧ inS32 my) then
        exec i s = .next (s.refusedFor .overflow)
      else if |mx - tx.toInt| ≤ tol ∧ |my - ty.toInt| ≤ tol then
        exec i s = .next (s.okWith [])
      else ∃ wx wy : Word, wx.toInt = nx ∧ wy.toInt = ny
        ∧ exec i s = .next ((s.setEngine e
          { m with
            tgtX := some wx, tgtY := some wy
            dirH := some (if nx < px.toInt then .negative else if nx = px.toInt then .stop else .positive)
            dirV := some (if ny < py.toInt then .negative else if ny = py.toInt then .stop else .positive)
            }).okWith []))

/-- The linear map (rule R163) is the floor of the exact quotient, sends 0 to 0 and `rangeMax` to the top of
the travel range, is monotone for a travel range that is not negative, and stays between 0 and the travel
range; the rule's examples for a travel range of 200. -/
def Obligations.AnalogMapStaysInTheTravelRange : Prop :=
  ∀ (c : Config) (raw raw' range rangeMax : Int), c.analogRounding = .floor →
    0 < rangeMax → 0 ≤ raw → raw ≤ raw' → raw' ≤ rangeMax →
    c.analogMap raw range rangeMax = ⌊(raw * range : ℚ) / rangeMax⌋
      ∧ c.analogMap 0 range rangeMax = 0
      ∧ c.analogMap rangeMax range rangeMax = range
      ∧ (0 ≤ range → c.analogMap raw range rangeMax ≤ c.analogMap raw' range rangeMax)
      ∧ min 0 range ≤ c.analogMap raw range rangeMax ∧ c.analogMap raw range rangeMax ≤ max 0 range
      ∧ [0, 65535, 32768, 32767, 33423, 34406].map (fun r => c.analogMap r 200 65535) = [0, 200, 100, 99, 102, 105]

/-- ADVANCE (rule R170), with the `LOW_EDGE_CMP` of 00_scope.md rule R8: its packet and precondition; the
directions after steps 1 and 2 (rule R172), the position after step 3 (rule R173), the strips of the old
footprint for the axes that moved (rule R176), the overflow refusal, and otherwise the commit of previous
position, direction and position with the response of rule R183. The one case where rules R170 and R179
differ (`sy + 1` = 2^32 while the y coordinate does not change) is the next statement, which covers all of it. -/
def Obligations.AdvanceRunsOneTick : Prop :=
  ∀ (e : EngineId) (stop : Bool) (s : State) (wx wy ux uy : Word) (hd vd : Dir),
    let m := s.engine e
    encode (.advance e stop) = ⟨0x26000000 ||| engBits e ||| (if stop then 1 else 0), []⟩
    ∧ refusesUnlessPlaced (.advance e stop) e s
    ∧ (s.cfg.lowEdgeCmp = .atOrBelow → m.configured = true → m.posValid = true →
    m.posX = some wx → m.posY = some wy → m.dirH = some hd → m.dirV = some vd →
    (stop = true → m.tgtX = some ux ∧ m.tgtY = some uy) →
    let px : Int := wx.toInt
    let py : Int := wy.toInt
    let sx : Int := m.stepX.toNat
    let sy : Int := m.stepY.toNat
    let sw : Int := m.sprW.toNat
    let sh : Int := m.sprH.toNat
    let hd' : Dir :=
      if stop = true ∧ wx = ux then .stop
      else if hd = .positive ∧ px + sx + sw ≥ m.dspW.toNat then .negative
      else if hd = .negative ∧ px - sx ≤ 0 then .positive
      else hd
    let vd' : Dir :=
      if stop = true ∧ wy = uy then .stop
      else if vd = .positive ∧ py + sy + sh ≥ m.dspH.toNat then .negative
      else if vd = .negative ∧ py - sy ≤ 0 then .positive
      else vd
    let px' : Int := if hd' = .positive then px + sx else if hd' = .negative then px - sx else px
    let py' : Int := if vd' = .positive then py + sy else if vd' = .negative then py - sy else py
    let vx : Int := if hd' = .positive then px else px + sw - sx
    let hy : Int := if vd' = .positive then py else py + sh - (sy + 1)
    (sy + 1 < 2 ^ 32 ∨ py' ≠ py) →
    if inS32 px' ∧ inS32 py' ∧ (px' ≠ px → inS32 vx) ∧ (py' ≠ py → inS32 hy ∧ sy + 1 < 2 ^ 32) then
      exec (.advance e stop) s = .next ((s.setEngine e
          { m with
            prevX := some wx, prevY := some wy, prevValid := true
            dirH := some hd', dirV := some vd'
            posX := some (BitVec.ofInt 32 px'), posY := some (BitVec.ofInt 32 py') }).respond
        ((if px' ≠ px then 0x00010000 else 0) ||| (if py' ≠ py then 0x00020000 else 0))
        ([BitVec.ofInt 32 px', BitVec.ofInt 32 py']
          ++ (if px' ≠ px then [BitVec.ofInt 32 vx, wy, m.stepX, m.sprH] else [])
          ++ (if py' ≠ py then [wx, BitVec.ofInt 32 hy, m.sprW, m.stepY + 1] else [])))
    else exec (.advance e stop) s = .next (s.refusedFor .overflow))

/-- ADVANCE with `sy + 1` = 2^32 where the vertical axis is STOP after steps 1 and 2 (`vd'` = STOP: it was
STOP, or `S` = 1 and the y coordinate is at its target), with the `LOW_EDGE_CMP` of 00_scope.md rule R8: the
vertical axis does not move, no horizontal strip is emitted and no `sy + 1` is returned, so only the horizontal
axis can overflow; otherwise the tick is committed and answered as ever. The model's choice (assumption 12):
rule R170's pseudocode refuses a returned height that does not fit, rule R179's sentence names `sy + 1` = 2^32
alone. -/
def Obligations.LargestStepOnAStoppedAxis : Prop :=
  ∀ (e : EngineId) (stop : Bool) (s : State) (wx wy ux uy : Word) (hd vd : Dir),
    let m := s.engine e
    s.cfg.lowEdgeCmp = .atOrBelow → m.configured = true → m.posValid = true →
    m.posX = some wx → m.posY = some wy → m.dirH = some hd → m.dirV = some vd →
    (stop = true → m.tgtX = some ux ∧ m.tgtY = some uy) →
    m.stepY = 0xFFFFFFFF → (vd = .stop ∨ (stop = true ∧ wy = uy)) →
    let px : Int := wx.toInt
    let sx : Int := m.stepX.toNat
    let sw : Int := m.sprW.toNat
    let hd' : Dir :=
      if stop = true ∧ wx = ux then .stop
      else if hd = .positive ∧ px + sx + sw ≥ m.dspW.toNat then .negative
      else if hd = .negative ∧ px - sx ≤ 0 then .positive
      else hd
    let px' : Int := if hd' = .positive then px + sx else if hd' = .negative then px - sx else px
    let vx : Int := if hd' = .positive then px else px + sw - sx
    if inS32 px' ∧ (px' ≠ px → inS32 vx) then
      exec (.advance e stop) s = .next ((s.setEngine e
          { m with
            prevX := some wx, prevY := some wy, prevValid := true
            dirH := some hd', dirV := some .stop
            posX := some (BitVec.ofInt 32 px') }).respond
        (if px' ≠ px then 0x00010000 else 0)
        ([BitVec.ofInt 32 px', wy]
          ++ (if px' ≠ px then [BitVec.ofInt 32 vx, wy, m.stepX, m.sprH] else [])))
    else exec (.advance e stop) s = .next (s.refusedFor .overflow)

/-- The strips cover all of the old footprint that the new footprint does not cover (rules R175, R177,
R178), for every step, even one larger than the sprite. -/
def Obligations.StripsCoverTheUncoveredFootprint : Prop :=
  ∀ (m : Engine) (c : Config) (stopX stopY : Bool) (px py : Int) (hd vd : Dir) (col row : Int),
    let k := m.tick c stopX stopY px py hd vd
    covers px py (u32 m.sprW) (u32 m.sprH) col row →
    ¬ covers k.posX k.posY (u32 m.sprW) (u32 m.sprH) col row →
    Strip.covers k.vertical col row ∨ Strip.covers k.horizontal col row

/-- On a display wide enough for two steps a sprite inside the travel range stays inside it, bounce, stop at
target or not (rule R179): nothing overflows, so ADVANCE completes. With `S` = 1 the target may stand anywhere. -/
def Obligations.BouncingSpriteStaysInTheTravelRange : Prop :=
  ∀ (e : EngineId) (stop : Bool) (s : State) (wx wy : Word) (hd vd : Dir),
    let m := s.engine e
    let sx : Int := m.stepX.toNat
    let sy : Int := m.stepY.toNat
    let rx : Int := m.dspW.toNat - m.sprW.toNat
    let ry : Int := m.dspH.toNat - m.sprH.toNat
    s.cfg.lowEdgeCmp = .atOrBelow → m.configured = true → m.posValid = true →
    m.posX = some wx → m.posY = some wy → m.dirH = some hd → m.dirV = some vd →
    (stop = true → m.tgtX.isSome = true ∧ m.tgtY.isSome = true) →
    2 * sx ≤ rx → 2 * sy ≤ ry → (m.dspW.toNat : Int) < 2 ^ 31 → (m.dspH.toNat : Int) < 2 ^ 31 →
    0 ≤ wx.toInt → wx.toInt ≤ rx → 0 ≤ wy.toInt → wy.toInt ≤ ry →
    ∃ (t : State) (nx ny : Word) (r : Response), exec (.advance e stop) s = .next t
      ∧ t.response = some r ∧ r.code = 0
      ∧ (t.engine e).posX = some nx ∧ (t.engine e).posY = some ny
      ∧ 0 ≤ nx.toInt ∧ nx.toInt ≤ rx ∧ 0 ≤ ny.toInt ∧ ny.toInt ≤ ry

/-- Stop at target (rule R171): with `S` = 1 and both coordinates at the target ADVANCE completes, stores
STOP in both directions, moves nothing and emits no rectangle, whatever the edges would say. It completes with
STEP_Y = 2^32 - 1 too, where rule R179's sentence could be read to refuse: the model's choice (assumption 12). -/
def Obligations.SpriteAtItsTargetHalts : Prop :=
  ∀ (e : EngineId) (s : State) (wx wy : Word) (hd vd : Dir),
    let m := s.engine e
    m.configured = true → m.posValid = true →
    m.posX = some wx → m.posY = some wy → m.tgtX = some wx → m.tgtY = some wy →
    m.dirH = some hd → m.dirV = some vd →
    exec (.advance e true) s = .next ((s.setEngine e
      { m with
        prevX := some wx, prevY := some wy, prevValid := true
        dirH := some .stop, dirV := some .stop }).okWith [wx, wy])

/-- Axis independence (rule R180): two engines that agree on what one axis reads, and whose ADVANCE is not
refused, agree on that axis's new coordinate and new direction. -/
def Obligations.AdvanceAxesAreIndependent : Prop :=
  ∀ (e : EngineId) (stop : Bool) (s t s' t' : State),
    let m := s.engine e
    let k := t.engine e
    s.cfg.lowEdgeCmp = t.cfg.lowEdgeCmp →
    exec (.advance e stop) s = .next s' → exec (.advance e stop) t = .next t' →
    (∀ r, s'.response = some r → r.code = 0) → (∀ r, t'.response = some r → r.code = 0) →
    (m.posX = k.posX → (stop = true → m.tgtX = k.tgtX) → m.dirH = k.dirH →
      m.stepX = k.stepX → m.sprW = k.sprW → m.dspW = k.dspW →
      (s'.engine e).posX = (t'.engine e).posX ∧ (s'.engine e).dirH = (t'.engine e).dirH)
    ∧ (m.posY = k.posY → (stop = true → m.tgtY = k.tgtY) → m.dirV = k.dirV →
      m.stepY = k.stepY → m.sprH = k.sprH → m.dspH = k.dspH →
      (s'.engine e).posY = (t'.engine e).posY ∧ (s'.engine e).dirV = (t'.engine e).dirV)

/-- Frame of the engine commands (10_state.md rules R25, R53; 20_memory.md rule R75): the other engine, the
decoder and every memory are unchanged; in the engine addressed, geometry, steps and tolerance never change,
and each other register changes only by the commands whose column of rule R25 says so. -/
def Obligations.EngineCommandsFrame : Prop :=
  ∀ (i : Instr) (e : EngineId) (s t : State), motionEngineOf i = some e → exec i s = .next t →
    let m := s.engine e
    let k := t.engine e
    (∀ f, f ≠ e → t.engine f = s.engine f)
    ∧ t.dec = s.dec ∧ t.cfg = s.cfg ∧ t.port = s.port ∧ t.freeDraws = s.freeDraws
    ∧ (∀ a, t.pk.read a = s.pk.read a ∧ t.pal.read a = s.pal.read a ∧ t.px.read a = s.px.read a)
    ∧ (k.sprW = m.sprW ∧ k.sprH = m.sprH ∧ k.dspW = m.dspW ∧ k.dspH = m.dspH
      ∧ k.stepX = m.stepX ∧ k.stepY = m.stepY ∧ k.jitTol = m.jitTol)
    ∧ (i ≠ .recenter e ∧ (∀ b, i ≠ .advance e b) → k.posX = m.posX ∧ k.posY = m.posY)
    ∧ (i ≠ .recenter e ∧ (∀ x y, i ≠ .settgt e x y) ∧ (∀ x y z, i ≠ .settgta e x y z) →
        k.tgtX = m.tgtX ∧ k.tgtY = m.tgtY)
    ∧ (i ≠ .recenter e ∧ (∀ x y, i ≠ .setdir e x y) ∧ (∀ x y z, i ≠ .settgta e x y z) ∧ (∀ b, i ≠ .advance e b) →
        k.dirH = m.dirH ∧ k.dirV = m.dirV)
    ∧ ((∀ b, i ≠ .advance e b) → k.prevX = m.prevX ∧ k.prevY = m.prevY)
    ∧ (i ≠ .construct e → k.configured = m.configured)
    ∧ (i ≠ .construct e ∧ i ≠ .recenter e → k.posValid = m.posValid ∧ k.err = m.err)
    ∧ (i ≠ .construct e ∧ (∀ b, i ≠ .advance e b) → k.prevValid = m.prevValid)

/-- An engine command's response and its effect on its engine depend on that engine and the parameters
alone: no other state leaks in (20_memory.md rule R75). -/
def Obligations.EngineCommandsSeeTheirEngineOnly : Prop :=
  ∀ (i : Instr) (e : EngineId) (s t s' t' : State), motionEngineOf i = some e →
    s.cfg = t.cfg → s.engine e = t.engine e → exec i s = .next s' → exec i t = .next t' →
    s'.engine e = t'.engine e ∧ s'.response = t'.response

/-- Commands to the two engines commute (rule R75): in either order each engine, the decoder and the
memories end the same, and each command gets the same response. -/
def Obligations.CommandsToTheTwoEnginesCommute : Prop :=
  ∀ (i j : Instr) (s s1 s2 t1 t2 : State), motionEngineOf i = some .e0 → motionEngineOf j = some .e1 →
    exec i s = .next s1 → exec j s1 = .next s2 → exec j s = .next t1 → exec i t1 = .next t2 →
    s2.me0 = t2.me0 ∧ s2.me1 = t2.me1 ∧ s2.dec = t2.dec ∧ s2.pk = t2.pk ∧ s2.pal = t2.pal ∧ s2.px = t2.px
      ∧ s1.response = t2.response ∧ s2.response = t1.response

/-- An engine is constructed at most once between resets (70_reset_and_hazards.md rule R262): CONSTRUCT on it
is refused and every step leaves it constructed, with its geometry (10_state.md rule R41). -/
def Obligations.ConstructedGeometryNeverChanges : Prop :=
  ∀ (s t : State) (e : EngineId), step s = .next t → (s.engine e).configured = true →
    exec (.construct e) s = .next (s.refusedFor .alreadyConstructed)
      ∧ (t.engine e).configured = true
      ∧ (t.engine e).sprW = (s.engine e).sprW ∧ (t.engine e).sprH = (s.engine e).sprH
      ∧ (t.engine e).dspW = (s.engine e).dspW ∧ (t.engine e).dspH = (s.engine e).dspH

/-- Each memory has one writer (10_state.md rules R50 to R53, 20_memory.md rule R70), and no step changes
the parameters (assumption 10). -/
def Obligations.EachMemoryHasOneWriter : Prop :=
  ∀ (s t : State), step s = .next t →
    t.cfg = s.cfg
    ∧ (t.pk ≠ s.pk → ∃ p a v, s.port.head? = some p ∧ decodePacket p = .ok (.wrpk a v))
    ∧ (t.pal ≠ s.pal → ∃ p a v, s.port.head? = some p ∧ decodePacket p = .ok (.wrpal a v))
    ∧ (t.px ≠ s.px → ∃ p, s.port.head? = some p ∧ decodePacket p = .ok .decode)
end

