-- ==== Sys2Proof/Laws/Decode.lean ====
section
/-! SUPPORT. The header word read back: its fields, and the row it selects (30_encoding.md rules R91, R94). -/

namespace Sys2Proof

@[simp] theorem engField_headerWord (opc : BitVec 8) (e : EngineId) (reg : BitVec 8) (s : Bool) :
    engField (headerWord opc e reg s) = e := by
  cases e <;> simp [engField, headerWord, EngineId.bit, BitVec.getLsbD_of_ge]

@[simp] theorem stopField_headerWord (opc : BitVec 8) (e : EngineId) (reg : BitVec 8) (s : Bool) :
    stopField (headerWord opc e reg s) = s := by
  simp [stopField, headerWord]

@[simp] theorem regField_headerWord (opc : BitVec 8) (e : EngineId) (reg : BitVec 8) (s : Bool) :
    regField (headerWord opc e reg s) = reg := by
  unfold regField headerWord
  ext i hi
  have h : 8 + i < 24 := by omega
  have h' : 8 + i < 16 := by omega
  have h'' : 8 + i < 32 := by omega
  simp [h, h', h'', BitVec.getLsbD_eq_getElem hi]

/-- The row each opcode's headers select. -/
theorem findRow_wrreg (e : EngineId) (reg : BitVec 8) :
    findRow (headerWord 0x01 e reg false) = some ⟨.wrreg, 0x01000000, 0xFFFE00FF, 1⟩ := by
  cases e <;> (revert reg; decide +kernel)

theorem findRow_rdreg (e : EngineId) (reg : BitVec 8) :
    findRow (headerWord 0x02 e reg false) = some ⟨.rdreg, 0x02000000, 0xFFFE00FF, 0⟩ := by
  cases e <;> (revert reg; decide +kernel)

theorem findRow_wrpal : findRow (headerWord 0x03 .e0 0 false) = some ⟨.wrpal, 0x03000000, 0xFFFFFFFF, 2⟩ := by
  decide +kernel

theorem findRow_wrpk : findRow (headerWord 0x04 .e0 0 false) = some ⟨.wrpk, 0x04000000, 0xFFFFFFFF, 2⟩ := by
  decide +kernel

theorem findRow_rdpx : findRow (headerWord 0x05 .e0 0 false) = some ⟨.rdpx, 0x05000000, 0xFFFFFFFF, 1⟩ := by
  decide +kernel

theorem findRow_decode : findRow (headerWord 0x10 .e0 0 false) = some ⟨.decode, 0x10000000, 0xFFFFFFFF, 0⟩ := by
  decide +kernel

theorem findRow_construct (e : EngineId) :
    findRow (headerWord 0x20 e 0 false) = some ⟨.construct, 0x20000000, 0xFFFEFFFF, 0⟩ := by
  cases e <;> decide +kernel

theorem findRow_recenter (e : EngineId) :
    findRow (headerWord 0x21 e 0 false) = some ⟨.recenter, 0x21000000, 0xFFFEFFFF, 0⟩ := by
  cases e <;> decide +kernel

theorem findRow_setdir (e : EngineId) :
    findRow (headerWord 0x22 e 0 false) = some ⟨.setdir, 0x22000000, 0xFFFEFFFF, 2⟩ := by
  cases e <;> decide +kernel

theorem findRow_settgt (e : EngineId) :
    findRow (headerWord 0x23 e 0 false) = some ⟨.settgt, 0x23000000, 0xFFFEFFFF, 2⟩ := by
  cases e <;> decide +kernel

theorem findRow_settgta (e : EngineId) :
    findRow (headerWord 0x24 e 0 false) = some ⟨.settgta, 0x24000000, 0xFFFEFFFF, 3⟩ := by
  cases e <;> decide +kernel

theorem findRow_attgt (e : EngineId) :
    findRow (headerWord 0x25 e 0 false) = some ⟨.attgt, 0x25000000, 0xFFFEFFFF, 0⟩ := by
  cases e <;> decide +kernel

theorem findRow_advance (e : EngineId) (s : Bool) :
    findRow (headerWord 0x26 e 0 s) = some ⟨.advance, 0x26000000, 0xFFFEFFFE, 0⟩ := by
  cases e <;> cases s <;> decide +kernel

/-- A packet whose header's row and operand count are known decodes by that row's fields. -/
theorem decodePacket_of_row {p : Packet} {r : OpRow} (h : findRow p.header = some r)
    (hn : p.operands.length = r.ops) : decodePacket p = readFields r.op p.header p.operands := by
  simp [decodePacket, h, hn]

end Sys2Proof
end

