-- ==== Sys2Proof/Laws/Memory.lean ====
section
/-! SUPPORT. The memory laws: a read after a write, and that every memory operation keeps the canonical
form and the capacity. -/

namespace Sys2Proof.Machine

variable {w : Nat}

@[simp] theorem Memory.read_nil (a : Nat) : Memory.read ([] : Memory w) a = none := rfl

@[simp] theorem Memory.read_write_same (m : Memory w) (a : Nat) (v : BitVec w) :
    (m.write a v).read a = some v := by
  induction m with
  | nil => simp [Memory.write, Memory.read]
  | cons c m ih =>
    obtain ⟨b, u⟩ := c
    simp only [Memory.write]
    split
    · simp [Memory.read]
    · split
      · simp [Memory.read]
      · simp_all [Memory.read]

theorem Memory.read_write_other (m : Memory w) {a b : Nat} (v : BitVec w) (h : b ≠ a) :
    (m.write a v).read b = m.read b := by
  induction m with
  | nil => simp [Memory.write, Memory.read, h]
  | cons c m ih =>
    obtain ⟨k, u⟩ := c
    simp only [Memory.write]
    split
    · simp [Memory.read, h]
    · split
      · subst_vars; simp [Memory.read, h]
      · simp [Memory.read, ih]

theorem Memory.read_write (m : Memory w) (a b : Nat) (v : BitVec w) :
    (m.write a v).read b = if b = a then some v else m.read b := by
  split
  · subst_vars; simp
  · exact Memory.read_write_other m v ‹_›

/-- A cell of the memory after a write is the new one or one that was there. -/
theorem Memory.mem_write {m : Memory w} {a : Nat} {v : BitVec w} {c : Nat × BitVec w}
    (h : c ∈ m.write a v) : c = (a, v) ∨ c ∈ m := by
  induction m with
  | nil => simpa [Memory.write] using h
  | cons d m ih =>
    obtain ⟨b, u⟩ := d
    simp only [Memory.write] at h
    split at h
    · simpa using h
    · split at h
      · rcases List.mem_cons.1 h with h | h
        · exact .inl h
        · exact .inr (List.mem_cons_of_mem _ h)
      · rcases List.mem_cons.1 h with h | h
        · exact .inr (h ▸ List.mem_cons_self)
        · exact (ih h).imp id (List.mem_cons_of_mem _)

theorem Memory.write_wf {m : Memory w} (h : m.wf) (a : Nat) (v : BitVec w) : (m.write a v).wf := by
  induction m with
  | nil => simp [Memory.write, Memory.wf]
  | cons c m ih =>
    obtain ⟨b, u⟩ := c
    have hb := (List.pairwise_cons.1 h).1
    have hm : Memory.wf m := (List.pairwise_cons.1 h).2
    simp only [Memory.write]
    split
    · refine List.pairwise_cons.2 ⟨fun d hd => ?_, h⟩
      rcases List.mem_cons.1 hd with rfl | hd
      · assumption
      · exact lt_trans ‹a < b› (hb d hd)
    · split
      · subst_vars; exact List.pairwise_cons.2 ⟨hb, hm⟩
      · refine List.pairwise_cons.2 ⟨fun d hd => ?_, ih hm⟩
        rcases Memory.mem_write hd with rfl | hd
        · show b < a; omega
        · exact hb d hd

theorem Memory.write_within {m : Memory w} {cap a : Nat} (h : m.within cap) (ha : a < cap) (v : BitVec w) :
    (m.write a v).within cap := by
  intro c hc
  rcases Memory.mem_write hc with rfl | hc
  · exact ha
  · exact h c hc

theorem Memory.writeAll_wf {m : Memory w} (h : m.wf) (a : Nat) (vs : List (BitVec w)) :
    (m.writeAll a vs).wf := by
  induction vs generalizing m a with
  | nil => exact h
  | cons v vs ih => exact ih (Memory.write_wf h a v) (a + 1)

theorem Memory.writeAll_within {m : Memory w} {cap : Nat} (h : m.within cap) {a : Nat} {vs : List (BitVec w)}
    (ha : a + vs.length ≤ cap) : (m.writeAll a vs).within cap := by
  induction vs generalizing m a with
  | nil => exact h
  | cons v vs ih =>
    simp only [List.length_cons] at ha
    exact ih (Memory.write_within h (by omega) v) (by omega)

/-- A block write: the cells it covers hold the values written, every other cell is as before. -/
theorem Memory.read_writeAll (m : Memory w) (a b : Nat) (vs : List (BitVec w)) :
    (m.writeAll a vs).read b = if a ≤ b ∧ b < a + vs.length then vs[b - a]? else m.read b := by
  induction vs generalizing m a with
  | nil =>
    simp [Memory.writeAll]
  | cons v vs ih =>
    simp only [Memory.writeAll, ih, Memory.read_write, List.length_cons]
    by_cases hb : b = a
    · subst hb
      simp
    · by_cases h : a ≤ b ∧ b < a + (vs.length + 1)
      · have h1 : a + 1 ≤ b ∧ b < a + 1 + vs.length := by omega
        obtain ⟨k, hk⟩ : ∃ k, b - a = k + 1 := ⟨b - a - 1, by omega⟩
        have hk' : b - (a + 1) = k := by omega
        simp only [if_pos h1, if_pos h, hk, hk', List.getElem?_cons_succ]
      · have h1 : ¬ (a + 1 ≤ b ∧ b < a + 1 + vs.length) := by omega
        simp only [if_neg h1, if_neg h, if_neg hb]

theorem Memory.ofCells_wf (cells : List (Nat × BitVec w)) : (Memory.ofCells cells).wf := by
  induction cells with
  | nil => exact List.Pairwise.nil
  | cons c cells ih => exact Memory.write_wf ih c.1 c.2

theorem Memory.ofCells_within {cells : List (Nat × BitVec w)} {cap : Nat} (h : ∀ c ∈ cells, c.1 < cap) :
    (Memory.ofCells cells).within cap := by
  induction cells with
  | nil => intro c hc; cases hc
  | cons c cells ih =>
    exact Memory.write_within (ih fun d hd => h d (List.mem_cons_of_mem _ hd)) (h c List.mem_cons_self) c.2

/-- A read finds only cells that the memory lists. -/
theorem Memory.mem_of_read {m : Memory w} {a : Nat} {v : BitVec w} (h : m.read a = some v) : (a, v) ∈ m := by
  induction m with
  | nil => cases h
  | cons c m ih =>
    obtain ⟨b, u⟩ := c
    simp only [Memory.read] at h
    split at h
    · cases h; subst_vars; exact List.mem_cons_self
    · exact List.mem_cons_of_mem _ (ih h)

end Sys2Proof.Machine
end

