-- ==== Sys2Proof/Laws/State.lean ====
section
/-! SUPPORT. One lemma per field per update of the state, so that no later proof unfolds a record update. -/

namespace Sys2Proof.Machine

/-! ### `setDec` -/

@[simp] theorem State.setDec_cfg (s : State) (d : Decoder) : (s.setDec d).cfg = s.cfg := rfl
@[simp] theorem State.setDec_dec (s : State) (d : Decoder) : (s.setDec d).dec = d := rfl
@[simp] theorem State.setDec_me0 (s : State) (d : Decoder) : (s.setDec d).me0 = s.me0 := rfl
@[simp] theorem State.setDec_me1 (s : State) (d : Decoder) : (s.setDec d).me1 = s.me1 := rfl
@[simp] theorem State.setDec_pk (s : State) (d : Decoder) : (s.setDec d).pk = s.pk := rfl
@[simp] theorem State.setDec_pal (s : State) (d : Decoder) : (s.setDec d).pal = s.pal := rfl
@[simp] theorem State.setDec_px (s : State) (d : Decoder) : (s.setDec d).px = s.px := rfl
@[simp] theorem State.setDec_port (s : State) (d : Decoder) : (s.setDec d).port = s.port := rfl
@[simp] theorem State.setDec_response (s : State) (d : Decoder) : (s.setDec d).response = s.response := rfl
@[simp] theorem State.setDec_runRefused (s : State) (d : Decoder) : (s.setDec d).runRefused = s.runRefused := rfl
@[simp] theorem State.setDec_freeDraws (s : State) (d : Decoder) : (s.setDec d).freeDraws = s.freeDraws := rfl
@[simp] theorem State.setDec_engine (s : State) (d : Decoder) (e : EngineId) : (s.setDec d).engine e = s.engine e := by
  cases e <;> rfl

/-! ### `setPk` -/

@[simp] theorem State.setPk_cfg (s : State) (m : Memory 8) : (s.setPk m).cfg = s.cfg := rfl
@[simp] theorem State.setPk_dec (s : State) (m : Memory 8) : (s.setPk m).dec = s.dec := rfl
@[simp] theorem State.setPk_me0 (s : State) (m : Memory 8) : (s.setPk m).me0 = s.me0 := rfl
@[simp] theorem State.setPk_me1 (s : State) (m : Memory 8) : (s.setPk m).me1 = s.me1 := rfl
@[simp] theorem State.setPk_pk (s : State) (m : Memory 8) : (s.setPk m).pk = m := rfl
@[simp] theorem State.setPk_pal (s : State) (m : Memory 8) : (s.setPk m).pal = s.pal := rfl
@[simp] theorem State.setPk_px (s : State) (m : Memory 8) : (s.setPk m).px = s.px := rfl
@[simp] theorem State.setPk_port (s : State) (m : Memory 8) : (s.setPk m).port = s.port := rfl
@[simp] theorem State.setPk_response (s : State) (m : Memory 8) : (s.setPk m).response = s.response := rfl
@[simp] theorem State.setPk_runRefused (s : State) (m : Memory 8) : (s.setPk m).runRefused = s.runRefused := rfl
@[simp] theorem State.setPk_freeDraws (s : State) (m : Memory 8) : (s.setPk m).freeDraws = s.freeDraws := rfl
@[simp] theorem State.setPk_engine (s : State) (m : Memory 8) (e : EngineId) : (s.setPk m).engine e = s.engine e := by
  cases e <;> rfl

/-! ### `setPal` -/

@[simp] theorem State.setPal_cfg (s : State) (m : Memory 16) : (s.setPal m).cfg = s.cfg := rfl
@[simp] theorem State.setPal_dec (s : State) (m : Memory 16) : (s.setPal m).dec = s.dec := rfl
@[simp] theorem State.setPal_me0 (s : State) (m : Memory 16) : (s.setPal m).me0 = s.me0 := rfl
@[simp] theorem State.setPal_me1 (s : State) (m : Memory 16) : (s.setPal m).me1 = s.me1 := rfl
@[simp] theorem State.setPal_pk (s : State) (m : Memory 16) : (s.setPal m).pk = s.pk := rfl
@[simp] theorem State.setPal_pal (s : State) (m : Memory 16) : (s.setPal m).pal = m := rfl
@[simp] theorem State.setPal_px (s : State) (m : Memory 16) : (s.setPal m).px = s.px := rfl
@[simp] theorem State.setPal_port (s : State) (m : Memory 16) : (s.setPal m).port = s.port := rfl
@[simp] theorem State.setPal_response (s : State) (m : Memory 16) : (s.setPal m).response = s.response := rfl
@[simp] theorem State.setPal_runRefused (s : State) (m : Memory 16) : (s.setPal m).runRefused = s.runRefused := rfl
@[simp] theorem State.setPal_freeDraws (s : State) (m : Memory 16) : (s.setPal m).freeDraws = s.freeDraws := rfl
@[simp] theorem State.setPal_engine (s : State) (m : Memory 16) (e : EngineId) : (s.setPal m).engine e = s.engine e := by
  cases e <;> rfl

/-! ### `setPx` -/

@[simp] theorem State.setPx_cfg (s : State) (m : Memory 8) : (s.setPx m).cfg = s.cfg := rfl
@[simp] theorem State.setPx_dec (s : State) (m : Memory 8) : (s.setPx m).dec = s.dec := rfl
@[simp] theorem State.setPx_me0 (s : State) (m : Memory 8) : (s.setPx m).me0 = s.me0 := rfl
@[simp] theorem State.setPx_me1 (s : State) (m : Memory 8) : (s.setPx m).me1 = s.me1 := rfl
@[simp] theorem State.setPx_pk (s : State) (m : Memory 8) : (s.setPx m).pk = s.pk := rfl
@[simp] theorem State.setPx_pal (s : State) (m : Memory 8) : (s.setPx m).pal = s.pal := rfl
@[simp] theorem State.setPx_px (s : State) (m : Memory 8) : (s.setPx m).px = m := rfl
@[simp] theorem State.setPx_port (s : State) (m : Memory 8) : (s.setPx m).port = s.port := rfl
@[simp] theorem State.setPx_response (s : State) (m : Memory 8) : (s.setPx m).response = s.response := rfl
@[simp] theorem State.setPx_runRefused (s : State) (m : Memory 8) : (s.setPx m).runRefused = s.runRefused := rfl
@[simp] theorem State.setPx_freeDraws (s : State) (m : Memory 8) : (s.setPx m).freeDraws = s.freeDraws := rfl
@[simp] theorem State.setPx_engine (s : State) (m : Memory 8) (e : EngineId) : (s.setPx m).engine e = s.engine e := by
  cases e <;> rfl

/-! ### `loosePx` -/

@[simp] theorem State.loosePx_cfg (s : State) : s.loosePx.cfg = s.cfg := rfl
@[simp] theorem State.loosePx_dec (s : State) : s.loosePx.dec = s.dec := rfl
@[simp] theorem State.loosePx_me0 (s : State) : s.loosePx.me0 = s.me0 := rfl
@[simp] theorem State.loosePx_me1 (s : State) : s.loosePx.me1 = s.me1 := rfl
@[simp] theorem State.loosePx_pk (s : State) : s.loosePx.pk = s.pk := rfl
@[simp] theorem State.loosePx_pal (s : State) : s.loosePx.pal = s.pal := rfl
@[simp] theorem State.loosePx_port (s : State) : s.loosePx.port = s.port := rfl
@[simp] theorem State.loosePx_response (s : State) : s.loosePx.response = s.response := rfl
@[simp] theorem State.loosePx_runRefused (s : State) : s.loosePx.runRefused = s.runRefused := rfl
@[simp] theorem State.loosePx_freeDraws (s : State) : s.loosePx.freeDraws = s.freeDraws + 1 := rfl
@[simp] theorem State.loosePx_engine (s : State) (e : EngineId) : s.loosePx.engine e = s.engine e := by
  cases e <;> rfl

/-! ### `setEngine` -/

@[simp] theorem State.setEngine_cfg (s : State) (e : EngineId) (m : Engine) : (s.setEngine e m).cfg = s.cfg := by
  cases e <;> rfl
@[simp] theorem State.setEngine_dec (s : State) (e : EngineId) (m : Engine) : (s.setEngine e m).dec = s.dec := by
  cases e <;> rfl
@[simp] theorem State.setEngine_pk (s : State) (e : EngineId) (m : Engine) : (s.setEngine e m).pk = s.pk := by
  cases e <;> rfl
@[simp] theorem State.setEngine_pal (s : State) (e : EngineId) (m : Engine) : (s.setEngine e m).pal = s.pal := by
  cases e <;> rfl
@[simp] theorem State.setEngine_px (s : State) (e : EngineId) (m : Engine) : (s.setEngine e m).px = s.px := by
  cases e <;> rfl
@[simp] theorem State.setEngine_port (s : State) (e : EngineId) (m : Engine) : (s.setEngine e m).port = s.port := by
  cases e <;> rfl
@[simp] theorem State.setEngine_response (s : State) (e : EngineId) (m : Engine) : (s.setEngine e m).response = s.response := by
  cases e <;> rfl
@[simp] theorem State.setEngine_runRefused (s : State) (e : EngineId) (m : Engine) : (s.setEngine e m).runRefused = s.runRefused := by
  cases e <;> rfl
@[simp] theorem State.setEngine_freeDraws (s : State) (e : EngineId) (m : Engine) : (s.setEngine e m).freeDraws = s.freeDraws := by
  cases e <;> rfl
@[simp] theorem State.setEngine_e0_me0 (s : State) (m : Engine) : (s.setEngine .e0 m).me0 = m := rfl
@[simp] theorem State.setEngine_e0_me1 (s : State) (m : Engine) : (s.setEngine .e0 m).me1 = s.me1 := rfl
@[simp] theorem State.setEngine_e1_me0 (s : State) (m : Engine) : (s.setEngine .e1 m).me0 = s.me0 := rfl
@[simp] theorem State.setEngine_e1_me1 (s : State) (m : Engine) : (s.setEngine .e1 m).me1 = m := rfl
@[simp] theorem State.engine_e0 (s : State) : s.engine .e0 = s.me0 := rfl
@[simp] theorem State.engine_e1 (s : State) : s.engine .e1 = s.me1 := rfl

@[simp] theorem State.setEngine_engine_same (s : State) (e : EngineId) (m : Engine) :
    (s.setEngine e m).engine e = m := by
  cases e <;> rfl

theorem State.setEngine_engine_other (s : State) {e f : EngineId} (m : Engine) (h : f ≠ e) :
    (s.setEngine e m).engine f = s.engine f := by
  cases e <;> cases f <;> first | rfl | exact absurd rfl h

@[simp] theorem State.setEngine_engine_self (s : State) (e : EngineId) : s.setEngine e (s.engine e) = s := by
  cases e <;> rfl

end Sys2Proof.Machine
end

