-- ==== Sys2Proof/Laws/Ops.lean ====
section
/-! SUPPORT. For each shared operation, once, everything it can do: ending a command, the preconditions,
the register map, the memories' unspecified contents and the command port. -/

namespace Sys2Proof.Machine

/-! ### Ending a command -/

/-- The state after a command ended with an outcome. -/
def State.answered (s : State) (a : Answer) : State :=
  { s with response := some a.response, runRefused := a.mark s.runRefused }

theorem answer_eq (a : Answer) (s : State) : answer a s = .next (s.answered a) := rfl

theorem refuse_eq (r : RefuseReason) (s : State) : refuse r s = .next (s.answered (.refused r)) := rfl

theorem answer_next {a : Answer} {s t : State} (h : answer a s = .next t) : t = s.answered a := by
  cases h; rfl

@[simp] theorem State.answered_cfg (s : State) (a : Answer) : (s.answered a).cfg = s.cfg := rfl
@[simp] theorem State.answered_dec (s : State) (a : Answer) : (s.answered a).dec = s.dec := rfl
@[simp] theorem State.answered_me0 (s : State) (a : Answer) : (s.answered a).me0 = s.me0 := rfl
@[simp] theorem State.answered_me1 (s : State) (a : Answer) : (s.answered a).me1 = s.me1 := rfl
@[simp] theorem State.answered_pk (s : State) (a : Answer) : (s.answered a).pk = s.pk := rfl
@[simp] theorem State.answered_pal (s : State) (a : Answer) : (s.answered a).pal = s.pal := rfl
@[simp] theorem State.answered_px (s : State) (a : Answer) : (s.answered a).px = s.px := rfl
@[simp] theorem State.answered_port (s : State) (a : Answer) : (s.answered a).port = s.port := rfl
@[simp] theorem State.answered_freeDraws (s : State) (a : Answer) : (s.answered a).freeDraws = s.freeDraws := rfl
@[simp] theorem State.answered_response (s : State) (a : Answer) :
    (s.answered a).response = some a.response := rfl
@[simp] theorem State.answered_runRefused (s : State) (a : Answer) :
    (s.answered a).runRefused = a.mark s.runRefused := rfl
@[simp] theorem State.answered_engine (s : State) (a : Answer) (e : EngineId) :
    (s.answered a).engine e = s.engine e := by
  cases e <;> rfl

@[simp] theorem Answer.mark_ok (d : List Word) (b : Option RefuseReason) : (Answer.ok d).mark b = b := by
  cases b <;> rfl
@[simp] theorem Answer.mark_flag (v : Bool) (b : Option RefuseReason) : (Answer.flag v).mark b = b := by
  cases b <;> rfl
@[simp] theorem Answer.mark_moved (x y : Word) (v h : Option Rect) (b : Option RefuseReason) :
    (Answer.moved x y v h).mark b = b := by
  cases b <;> rfl
@[simp] theorem Answer.mark_paletteIndexOutOfRange (x y : Word) (b : Option RefuseReason) :
    (Answer.paletteIndexOutOfRange x y).mark b = b := by
  cases b <;> rfl
@[simp] theorem Answer.mark_configurationError (b : Option RefuseReason) :
    Answer.configurationError.mark b = b := by
  cases b <;> rfl
@[simp] theorem Answer.mark_refused (r : RefuseReason) (b : Option RefuseReason) :
    (Answer.refused r).mark b = some (b.getD r) := by
  cases b <;> rfl

@[simp] theorem Answer.ok_response (d : List Word) : (Answer.ok d).response = ⟨0x00000000, d⟩ := rfl
@[simp] theorem Answer.flag_response (v : Bool) :
    (Answer.flag v).response = ⟨if v then 0x00000100 else 0x00000000, []⟩ := by
  cases v <;> rfl
@[simp] theorem Answer.paletteIndexOutOfRange_response (b p : Word) :
    (Answer.paletteIndexOutOfRange b p).response = ⟨0x00000001, [b, p]⟩ := rfl
@[simp] theorem Answer.configurationError_response :
    Answer.configurationError.response = ⟨0x00000002, []⟩ := rfl
@[simp] theorem Answer.refused_response (r : RefuseReason) :
    (Answer.refused r).response = ⟨0x00000003, []⟩ := rfl

/-! ### Preconditions (41_motion.md rule R151) -/

theorem Engine.notReady_of_placed {m : Engine} (hc : m.configured = true) (hp : m.posValid = true) :
    m.notReady = none := by
  simp [Engine.notReady, hc, hp]

theorem Engine.notReady_eq_none {m : Engine} (h : m.notReady = none) :
    m.configured = true ∧ m.posValid = true := by
  unfold Engine.notReady at h
  split at h
  · cases h
  · split at h
    · cases h
    · simp_all

/-! ### Reading what may hold no value -/

@[simp] theorem readPoint_some (x y : Word) : readPoint (some x) (some y) = some (s32 x, s32 y) := rfl
@[simp] theorem readDirs_some (h v : Dir) : readDirs (some h) (some v) = some (h, v) := rfl

theorem readPoint_eq_some {x y : Option Word} {p : Int × Int} (h : readPoint x y = some p) :
    ∃ a b, x = some a ∧ y = some b ∧ p = (s32 a, s32 b) := by
  cases x <;> cases y <;> simp_all [readPoint]

theorem readDirs_eq_some {h v : Option Dir} {p : Dir × Dir} (e : readDirs h v = some p) :
    ∃ a b, h = some a ∧ v = some b ∧ p = (a, b) := by
  cases h <;> cases v <;> simp_all [readDirs]

/-! ### The register map (10_state.md rule R40) -/

theorem Reg.ofNumber_number (r : Reg) : Reg.ofNumber r.number = some r := by
  cases r <;> decide

theorem Reg.number_of_ofNumber {n : BitVec 8} {r : Reg} (h : Reg.ofNumber n = some r) : r.number = n := by
  have := List.find?_some h
  simpa using this

/-- WRREG's write touches the decoder's registers or one engine's, nothing else. -/
theorem State.writeReg_cases (s : State) (e : EngineId) (r : Reg) (v : Word) :
    (∃ d, s.writeReg e r v = s.setDec d) ∨ (∃ m, s.writeReg e r v = s.setEngine e m) := by
  cases r <;> first
    | exact .inl ⟨_, rfl⟩
    | exact .inr ⟨_, rfl⟩

/-! ### Unspecified `PX` (40_decoder.md rule R128) -/

theorem State.loosePx_wf (s : State) : s.loosePx.px.wf := Memory.ofCells_wf _

theorem State.loosePx_within (s : State) : s.loosePx.px.within s.cfg.pxCap :=
  Memory.ofCells_within fun c hc => by simpa using (List.mem_filter.1 hc).2

/-! ### The command port -/

theorem State.takePacket_cons {s : State} {p : Packet} {rest : List Packet} (h : s.port = p :: rest) :
    s.takePacket = some (p, { s with port := rest }) := by
  simp [State.takePacket, h]

theorem State.takePacket_nil {s : State} (h : s.port = []) : s.takePacket = none := by
  simp [State.takePacket, h]

end Sys2Proof.Machine
end

