-- ==== Sys2Proof/Laws/Exec.lean ====
section
/-! SUPPORT. Everything a command can do, said once: it is refused, or it has the effect that its rule gives
it. A proof about all commands cites `exec_cases` and takes the effects apart, without unfolding a meaning. -/

namespace Sys2Proof.Machine

/-- The effect of a command that is not refused, as a relation between the state before and the state after. -/
def effect (s t : State) : Instr → Prop
  | .wrreg e n v => (Instr.wrreg e n v).wf = true ∧ ∃ r, Reg.ofNumber n = some r ∧ r.access ≠ .readOnly
      ∧ (r.access = .untilConstruct → (s.engine e).configured = false)
      ∧ t = (s.writeReg e r v).answered (.ok [])
  | .rdreg e n => ∃ r v, Reg.ofNumber n = some r ∧ s.readReg e r = some v ∧ t = s.answered (.ok [v])
  | .wrpal a v => a.toNat < palDepth ∧ t = (s.setPal (s.pal.write a.toNat v)).answered (.ok [])
  | .wrpk a v => a.toNat < s.cfg.pkCap ∧ t = (s.setPk (s.pk.write a.toNat v)).answered (.ok [])
  | .rdpx a => s.dec.bufValid = true ∧ a.toNat < s.dec.bufLen.toNat
      ∧ ∃ b : Byte, s.px.read a.toNat = some b ∧ t = s.answered (.ok [b.setWidth 32])
  | .decode =>
    (s.dec.inconsistent s.cfg = true
      ∧ t = (s.setDec (s.dec.failed .configurationError 0 0)).answered .configurationError)
    ∨ (s.dec.inconsistent s.cfg = false
      ∧ s.pk.filled (streamNeed s.dec.width.toNat s.dec.height.toNat s.dec.bpp.toNat) = true
      ∧ ((∃ b p, scan s = .outOfRange b p ∧ t = ((s.setDec (s.dec.failed .paletteIndexOutOfRange
            (BitVec.ofNat 32 b) (BitVec.ofNat 32 p))).loosePx).answered
              (.paletteIndexOutOfRange (BitVec.ofNat 32 b) (BitVec.ofNat 32 p)))
        ∨ ∃ out, scan s = .done out ∧ t = ((s.setDec (s.dec.succeeded out.length)).setPx
            (s.px.writeAll 0 out)).answered (.ok [])))
  | .construct e => (s.engine e).configured = false
      ∧ (((s.engine e).zeroGeometry = true
          ∧ t = (s.setEngine e { s.engine e with err := .configurationError }).answered .configurationError)
        ∨ ((s.engine e).zeroGeometry = false ∧ t = (s.setEngine e { s.engine e with
            configured := true, posValid := false, prevValid := false, err := .ok }).answered (.ok [])))
  | .recenter e => (s.engine e).configured = true
      ∧ (((s.engine e).zeroGeometry = true
          ∧ t = (s.setEngine e { s.engine e with err := .configurationError }).answered .configurationError)
        ∨ ((s.engine e).zeroGeometry = false ∧ t = (s.setEngine e ((s.engine e).placedAt
            (s.cfg.center (u32 (s.engine e).dspW) (u32 (s.engine e).sprW))
            (s.cfg.center (u32 (s.engine e).dspH) (u32 (s.engine e).sprH)))).answered (.ok [])))
  | .setdir e h v => (s.engine e).notReady = none ∧ t = (s.setEngine e { s.engine e with
      dirH := some (sgn (s32 h)), dirV := some (sgn (s32 v)) }).answered (.ok [])
  | .settgt e x y => (s.engine e).notReady = none
      ∧ t = (s.setEngine e { s.engine e with tgtX := some x, tgtY := some y }).answered (.ok [])
  | .settgta e rawX rawY rangeMax => (s.engine e).notReady = none ∧ ∃ px py tx ty : Int,
      readPoint (s.engine e).posX (s.engine e).posY = some (px, py)
      ∧ readPoint (s.engine e).tgtX (s.engine e).tgtY = some (tx, ty)
      ∧ ¬ (rangeMax.toNat = 0 ∨ rangeMax.toNat < rawX.toNat ∨ rangeMax.toNat < rawY.toNat)
      ∧ let mx := s.cfg.analogMap (u32 rawX) (u32 (s.engine e).dspW - u32 (s.engine e).sprW) (u32 rangeMax)
        let my := s.cfg.analogMap (u32 rawY) (u32 (s.engine e).dspH - u32 (s.engine e).sprH) (u32 rangeMax)
        let chX := s.cfg.outsideJitter mx tx (u32 (s.engine e).jitTol)
        let chY := s.cfg.outsideJitter my ty (u32 (s.engine e).jitTol)
        (fitsS32 mx && fitsS32 my) = true
        ∧ ((chX = false ∧ chY = false ∧ t = s.answered (.ok []))
          ∨ ((chX = true ∨ chY = true)
            ∧ t = (s.setEngine e ((s.engine e).aimed chX chY mx my px py tx ty)).answered (.ok [])))
  | .attgt e => (s.engine e).notReady = none ∧ ∃ px py tx ty : Int,
      readPoint (s.engine e).posX (s.engine e).posY = some (px, py)
      ∧ readPoint (s.engine e).tgtX (s.engine e).tgtY = some (tx, ty)
      ∧ t = s.answered (.flag (decide (px = tx ∧ py = ty)))
  | .advance e stop => (s.engine e).notReady = none ∧ ∃ (px py : Int) (hd vd : Dir) (stopX stopY : Bool),
      readPoint (s.engine e).posX (s.engine e).posY = some (px, py)
      ∧ readDirs (s.engine e).dirH (s.engine e).dirV = some (hd, vd)
      ∧ (stop = false → stopX = false ∧ stopY = false)
      ∧ (stop = true → ∃ tx ty, readPoint (s.engine e).tgtX (s.engine e).tgtY = some (tx, ty)
          ∧ stopX = decide (px = tx) ∧ stopY = decide (py = ty))
      ∧ let k := (s.engine e).tick s.cfg stopX stopY px py hd vd
        k.fits = true
        ∧ t = (s.setEngine e ((s.engine e).ticked px py k)).answered
          (.moved (word k.posX) (word k.posY) (k.vertical.map Strip.toRect) (k.horizontal.map Strip.toRect))

/-- A command's next state is the state refused, with a reason, or the one its effect gives. -/
abbrev Ends (s t : State) (i : Instr) : Prop := (∃ r, t = s.answered (.refused r)) ∨ effect s t i

theorem Ends.of_refuse {s t : State} {i : Instr} {r : RefuseReason} (h : refuse r s = .next t) : Ends s t i :=
  .inl ⟨r, answer_next h⟩

theorem ends_wrreg {e : EngineId} {n : BitVec 8} {v : Word} {s t : State}
    (h : exec (.wrreg e n v) s = .next t) : Ends s t (.wrreg e n v) := by
  simp only [exec, execWrreg] at h
  split at h
  · exact .of_refuse h
  have hw : (Instr.wrreg e n v).wf = true := by simp_all
  split at h
  · exact .of_refuse h
  split at h
  · exact .of_refuse h
  · split at h
    · exact .of_refuse h
    · exact .inr ⟨hw, _, ‹_›, by simp_all, by simp_all, answer_next h⟩
  · exact .inr ⟨hw, _, ‹_›, by simp_all, by simp_all, answer_next h⟩

theorem ends_rdreg {e : EngineId} {n : BitVec 8} {s t : State}
    (h : exec (.rdreg e n) s = .next t) : Ends s t (.rdreg e n) := by
  simp only [exec, execRdreg] at h
  split at h
  · exact .of_refuse h
  split at h
  · exact .of_refuse h
  split at h
  · exact .of_refuse h
  · exact .inr ⟨_, _, ‹_›, ‹_›, answer_next h⟩

theorem ends_wrpal {a : Word} {v : Colour} {s t : State}
    (h : exec (.wrpal a v) s = .next t) : Ends s t (.wrpal a v) := by
  simp only [exec, execWrpal] at h
  split at h
  · exact .of_refuse h
  · exact .inr ⟨by omega, answer_next h⟩

theorem ends_wrpk {a : Word} {v : Byte} {s t : State}
    (h : exec (.wrpk a v) s = .next t) : Ends s t (.wrpk a v) := by
  simp only [exec, execWrpk] at h
  split at h
  · exact .of_refuse h
  · exact .inr ⟨by omega, answer_next h⟩

theorem ends_rdpx {a : Word} {s t : State} (h : exec (.rdpx a) s = .next t) : Ends s t (.rdpx a) := by
  simp only [exec, execRdpx] at h
  split at h
  · exact .of_refuse h
  split at h
  · exact .of_refuse h
  split at h
  · exact .of_refuse h
  · exact .inr ⟨by simp_all, by omega, _, ‹_›, answer_next h⟩

theorem ends_decode {s t : State} (h : exec .decode s = .next t) : Ends s t .decode := by
  simp only [exec, execDecode] at h
  split at h
  · exact .inr (.inl ⟨‹_›, answer_next h⟩)
  split at h
  · exact .of_refuse h
  have hc : s.dec.inconsistent s.cfg = false := by simp_all
  have hf : s.pk.filled (streamNeed s.dec.width.toNat s.dec.height.toNat s.dec.bpp.toNat) = true := by simp_all
  split at h
  · exact .of_refuse h
  · exact .inr (.inr ⟨hc, hf, .inl ⟨_, _, ‹_›, answer_next h⟩⟩)
  · exact .inr (.inr ⟨hc, hf, .inr ⟨_, ‹_›, answer_next h⟩⟩)

theorem ends_construct {e : EngineId} {s t : State}
    (h : exec (.construct e) s = .next t) : Ends s t (.construct e) := by
  simp only [exec, execConstruct] at h
  split at h
  · exact .of_refuse h
  split at h
  · exact .inr ⟨by simp_all, .inl ⟨‹_›, answer_next h⟩⟩
  · exact .inr ⟨by simp_all, .inr ⟨by simp_all, answer_next h⟩⟩

theorem ends_recenter {e : EngineId} {s t : State}
    (h : exec (.recenter e) s = .next t) : Ends s t (.recenter e) := by
  simp only [exec, execRecenter] at h
  split at h
  · exact .of_refuse h
  split at h
  · exact .inr ⟨by simp_all, .inl ⟨‹_›, answer_next h⟩⟩
  · exact .inr ⟨by simp_all, .inr ⟨by simp_all, answer_next h⟩⟩

theorem ends_setdir {e : EngineId} {x y : Word} {s t : State}
    (h : exec (.setdir e x y) s = .next t) : Ends s t (.setdir e x y) := by
  simp only [exec, execSetdir] at h
  split at h
  · exact .of_refuse h
  · exact .inr ⟨‹_›, answer_next h⟩

theorem ends_settgt {e : EngineId} {x y : Word} {s t : State}
    (h : exec (.settgt e x y) s = .next t) : Ends s t (.settgt e x y) := by
  simp only [exec, execSettgt] at h
  split at h
  · exact .of_refuse h
  · exact .inr ⟨‹_›, answer_next h⟩

theorem ends_settgta {e : EngineId} {x y z : Word} {s t : State}
    (h : exec (.settgta e x y z) s = .next t) : Ends s t (.settgta e x y z) := by
  simp only [exec, execSettgta] at h
  split at h
  · exact .of_refuse h
  split at h
  · split at h
    · exact .of_refuse h
    split at h
    · exact .of_refuse h
    split at h
    · exact .inr ⟨‹_›, _, _, _, _, ‹_›, ‹_›, ‹_›, by simp_all, .inl ⟨by simp_all, by simp_all, answer_next h⟩⟩
    · exact .inr ⟨‹_›, _, _, _, _, ‹_›, ‹_›, ‹_›, by simp_all, .inr ⟨by grind, answer_next h⟩⟩
  · exact .of_refuse h

theorem ends_attgt {e : EngineId} {s t : State} (h : exec (.attgt e) s = .next t) : Ends s t (.attgt e) := by
  simp only [exec, execAttgt] at h
  split at h
  · exact .of_refuse h
  split at h
  · exact .inr ⟨‹_›, _, _, _, _, ‹_›, ‹_›, answer_next h⟩
  · exact .of_refuse h

/-- A tick is refused or committed. -/
theorem commitTick_next {e : EngineId} {px py : Int} {k : Tick} {s t : State}
    (h : commitTick e px py k s = .next t) :
    (k.fits = false ∧ refuse .overflow s = .next t) ∨ (k.fits = true
      ∧ t = (s.setEngine e ((s.engine e).ticked px py k)).answered
        (.moved (word k.posX) (word k.posY) (k.vertical.map Strip.toRect) (k.horizontal.map Strip.toRect))) := by
  unfold commitTick at h
  split at h
  · exact .inl ⟨by simp_all, h⟩
  · exact .inr ⟨by simp_all, answer_next h⟩

theorem ends_advance {e : EngineId} {b : Bool} {s t : State}
    (h : exec (.advance e b) s = .next t) : Ends s t (.advance e b) := by
  simp only [exec, execAdvance] at h
  split at h
  · exact .of_refuse h
  split at h
  · split at h
    · split at h
      · exact .of_refuse h
      · rcases commitTick_next h with ⟨-, hr⟩ | ⟨hf, rfl⟩
        · exact .of_refuse hr
        · exact .inr ⟨‹_›, _, _, _, _, _, _, ‹_›, ‹_›, by simp_all, fun _ => ⟨_, _, ‹_›, rfl, rfl⟩, hf, rfl⟩
    · rcases commitTick_next h with ⟨-, hr⟩ | ⟨hf, rfl⟩
      · exact .of_refuse hr
      · exact .inr ⟨‹_›, _, _, _, _, _, _, ‹_›, ‹_›, fun _ => ⟨rfl, rfl⟩, by simp_all, hf, rfl⟩
  · exact .of_refuse h

/-- What a command can do. -/
theorem exec_cases {i : Instr} {s t : State} (h : exec i s = .next t) : Ends s t i := by
  cases i with
  | wrreg => exact ends_wrreg h
  | rdreg => exact ends_rdreg h
  | wrpal => exact ends_wrpal h
  | wrpk => exact ends_wrpk h
  | rdpx => exact ends_rdpx h
  | decode => exact ends_decode h
  | construct => exact ends_construct h
  | recenter => exact ends_recenter h
  | setdir => exact ends_setdir h
  | settgt => exact ends_settgt h
  | settgta => exact ends_settgta h
  | attgt => exact ends_attgt h
  | advance => exact ends_advance h

/-- What a step can do: wait, refuse an illegal packet, or run the command of the oldest packet. -/
theorem step_cases {s t : State} (h : step s = .next t) :
    (s.port = [] ∧ t = s)
    ∨ ∃ p rest, s.port = p :: rest
      ∧ ((∃ d, decodePacket p = .error d ∧ t = ({ s with port := rest } : State).answered (.refused .illegal))
        ∨ ∃ i, decodePacket p = .ok i ∧ exec i { s with port := rest } = .next t) := by
  cases hp : s.port with
  | nil => rw [step, State.takePacket_nil hp] at h; cases h; exact .inl ⟨rfl, rfl⟩
  | cons p rest =>
    rw [step, State.takePacket_cons hp] at h
    refine .inr ⟨p, rest, rfl, ?_⟩
    cases hd : decodePacket p with
    | error d => simp only [hd] at h; exact .inl ⟨d, rfl, answer_next h⟩
    | ok i => simp only [hd] at h; exact .inr ⟨i, rfl, h⟩

end Sys2Proof.Machine
end

