-- ==== Sys2Proof/Laws/PerInstr.lean ====
section
/-! SUPPORT. The per-instruction family `Shape`: an encoded command has the header and the operand count
of its own row of the opcode map (30_encoding.md rule R94). -/

namespace Sys2Proof.Laws.Shape

/-- The encoded command's header selects the row of its own opcode, and the packet has that row's number
of operand words. -/
def Statement (i : Instr) : Prop :=
  ∃ r ∈ opcodeTable, r.op = i.opcode ∧ r.selects (encode i).header = true ∧ (encode i).operands.length = r.ops

/-- Only the bits a header leaves free vary with `ENG` and `REG`. -/
theorem selects_wrreg (eng : EngineId) (reg : BitVec 8) :
    (headerWord 0x01 eng reg false &&& 0xFFFE00FF#32) = 0x01000000#32 := by
  cases eng <;> (revert reg; decide)

theorem selects_rdreg (eng : EngineId) (reg : BitVec 8) :
    (headerWord 0x02 eng reg false &&& 0xFFFE00FF#32) = 0x02000000#32 := by
  cases eng <;> (revert reg; decide)

theorem wrreg (eng : EngineId) (reg : BitVec 8) (value : Word) : Statement (.wrreg eng reg value) :=
  ⟨⟨.wrreg, 0x01000000, 0xFFFE00FF, 1⟩, by decide, rfl, by
    simpa [OpRow.selects, encode] using selects_wrreg eng reg, rfl⟩

theorem rdreg (eng : EngineId) (reg : BitVec 8) : Statement (.rdreg eng reg) :=
  ⟨⟨.rdreg, 0x02000000, 0xFFFE00FF, 0⟩, by decide, rfl, by
    simpa [OpRow.selects, encode] using selects_rdreg eng reg, rfl⟩

theorem wrpal (index : Word) (value : Colour) : Statement (.wrpal index value) :=
  ⟨⟨.wrpal, 0x03000000, 0xFFFFFFFF, 2⟩, by decide, rfl, by
    show (headerWord 0x03 .e0 0 false &&& 0xFFFFFFFF#32 == 0x03000000#32) = true; decide, rfl⟩

theorem wrpk (addr : Word) (value : Byte) : Statement (.wrpk addr value) :=
  ⟨⟨.wrpk, 0x04000000, 0xFFFFFFFF, 2⟩, by decide, rfl, by
    show (headerWord 0x04 .e0 0 false &&& 0xFFFFFFFF#32 == 0x04000000#32) = true; decide, rfl⟩

theorem rdpx (addr : Word) : Statement (.rdpx addr) :=
  ⟨⟨.rdpx, 0x05000000, 0xFFFFFFFF, 1⟩, by decide, rfl, by
    show (headerWord 0x05 .e0 0 false &&& 0xFFFFFFFF#32 == 0x05000000#32) = true; decide, rfl⟩

theorem decode : Statement .decode :=
  ⟨⟨.decode, 0x10000000, 0xFFFFFFFF, 0⟩, by decide, rfl, by decide, rfl⟩

theorem construct (eng : EngineId) : Statement (.construct eng) :=
  ⟨⟨.construct, 0x20000000, 0xFFFEFFFF, 0⟩, by decide, rfl, by cases eng <;> decide, rfl⟩

theorem recenter (eng : EngineId) : Statement (.recenter eng) :=
  ⟨⟨.recenter, 0x21000000, 0xFFFEFFFF, 0⟩, by decide, rfl, by cases eng <;> decide, rfl⟩

theorem setdir (eng : EngineId) (h v : Word) : Statement (.setdir eng h v) :=
  ⟨⟨.setdir, 0x22000000, 0xFFFEFFFF, 2⟩, by decide, rfl, by
    show (headerWord 0x22 eng 0 false &&& 0xFFFEFFFF#32 == 0x22000000#32) = true; cases eng <;> decide, rfl⟩

theorem settgt (eng : EngineId) (x y : Word) : Statement (.settgt eng x y) :=
  ⟨⟨.settgt, 0x23000000, 0xFFFEFFFF, 2⟩, by decide, rfl, by
    show (headerWord 0x23 eng 0 false &&& 0xFFFEFFFF#32 == 0x23000000#32) = true; cases eng <;> decide, rfl⟩

theorem settgta (eng : EngineId) (rawX rawY rangeMax : Word) : Statement (.settgta eng rawX rawY rangeMax) :=
  ⟨⟨.settgta, 0x24000000, 0xFFFEFFFF, 3⟩, by decide, rfl, by
    show (headerWord 0x24 eng 0 false &&& 0xFFFEFFFF#32 == 0x24000000#32) = true; cases eng <;> decide, rfl⟩

theorem attgt (eng : EngineId) : Statement (.attgt eng) :=
  ⟨⟨.attgt, 0x25000000, 0xFFFEFFFF, 0⟩, by decide, rfl, by cases eng <;> decide, rfl⟩

theorem advance (eng : EngineId) (stopAtTarget : Bool) : Statement (.advance eng stopAtTarget) :=
  ⟨⟨.advance, 0x26000000, 0xFFFEFFFE, 0⟩, by decide, rfl, by cases eng <;> cases stopAtTarget <;> decide, rfl⟩

end Sys2Proof.Laws.Shape
end

