-- ==== Sys2Proof/Tests/Slice0.lean ====
section
/-! SUPPORT. Tests of one step each, their expected words taken from spec/95_test_vectors.md (the vector is
named beside each) or from the packets of 30_encoding.md rule R105, and a witness for every statement of
Certificates/Slice0/Obligations.lean that has hypotheses. -/

-- The tests are checked one after another, not each on a thread of its own.
set_option Elab.async false

namespace Sys2Proof.Tests

open Sys2Proof.Machine

/-! ### Helpers -/

def nextOf : Outcome → Option State
  | .next s => some s
  | _ => none

def responseOf (o : Outcome) : Option Response := (nextOf o).bind fun s => s.response

/-- The default geometry of 95_test_vectors.md. -/
def bare : Engine :=
  { Engine.reset with sprW := 40, sprH := 40, dspW := 240, dspH := 240, stepX := 5, stepY := 5, jitTol := 3 }

/-- A placed engine of that geometry. -/
def placed (px py tx ty : Word) (h v : Dir) : Engine :=
  { bare with
    posX := some px, posY := some py, tgtX := some tx, tgtY := some ty, dirH := some h, dirV := some v
    configured := true, posValid := true }

def withEngine (m : Engine) : State := { State.reset with me0 := m }

/-- After RECENTER of the default geometry. -/
def centred : State := withEngine (placed 100 100 100 100 .stop .stop)

/-- A state whose bitmap is loaded. -/
def bitmap (w h b n l : Word) (pk : Memory 8) (pal : Memory 16) : State :=
  { State.reset with
    dec := { Decoder.reset with width := w, height := h, bpp := b, palLen := n, pkLen := l }
    pk := pk, pal := pal }

/-- Vector V1, the source's example X1. -/
def v1 : State := bitmap 2 1 4 2 1 [(0, 0x01)] [(0, 0x0000), (1, 0xF800)]

/-- Vector V6: pixel 1 has index 2 in a palette of 2. -/
def v6 : State := bitmap 2 1 4 2 1 [(0, 0x12)] [(0, 0x0000), (1, 0xF800)]

/-- Vector V5: three pixels of 3 bits, the third straddling. -/
def v5 : State :=
  bitmap 3 1 3 8 2 [(0, 0xD2), (1, 0x80)]
    [(0, 0x0000), (1, 0x0101), (2, 0x0202), (3, 0x0303), (4, 0x0404), (5, 0x0505), (6, 0x0606), (7, 0x0707)]

/-- The state after V1's decode, with its buffer. -/
def decoded : State :=
  { v1 with
    dec := { v1.dec with bufValid := true, bufLen := 4 }
    px := [(0, 0x00), (1, 0x00), (2, 0x00), (3, 0xF8)] }

/-- A configuration with a stream memory of 8 bytes. -/
def smallCaps : Config := { Config.default with pkCap := 8 }

/-! ### Well-formedness and decoding -/

theorem test_wf_wrreg_decoder_register_of_engine_1 : (Instr.wrreg .e1 0x1F 0).wf = false := by decide
theorem test_wf_rdreg_decoder_register_of_engine_1 : (Instr.rdreg .e1 0x00).wf = false := by decide
theorem test_wf_engine_register_of_engine_1 : (Instr.wrreg .e1 0x20 0).wf = true := by decide

/- Header words written out from the fields of rule R91, OPC, reserved, ENG, REG, reserved, S. -/
theorem test_decode_wrreg :
    decodePacket ⟨0b00000001_0000000_1_00100100_0000000_0, [5]⟩ = .ok (.wrreg .e1 0x24 5) := by rfl
theorem test_decode_rdreg : decodePacket ⟨0b00000010_0000000_0_00110000_0000000_0, []⟩ = .ok (.rdreg .e0 0x30) := by
  rfl
theorem test_decode_wrpal :
    decodePacket ⟨0b00000011_0000000_0_00000000_0000000_0, [1, 0xF800]⟩ = .ok (.wrpal 1 0xF800) := by rfl
theorem test_decode_wrpk :
    decodePacket ⟨0b00000100_0000000_0_00000000_0000000_0, [7, 0xAB]⟩ = .ok (.wrpk 7 0xAB) := by rfl
theorem test_decode_rdpx : decodePacket ⟨0b00000101_0000000_0_00000000_0000000_0, [3]⟩ = .ok (.rdpx 3) := by rfl
theorem test_decode_decode : decodePacket ⟨0b00010000_0000000_0_00000000_0000000_0, []⟩ = .ok .decode := by rfl
theorem test_decode_construct :
    decodePacket ⟨0b00100000_0000000_1_00000000_0000000_0, []⟩ = .ok (.construct .e1) := by rfl
theorem test_decode_recenter :
    decodePacket ⟨0b00100001_0000000_1_00000000_0000000_0, []⟩ = .ok (.recenter .e1) := by rfl
theorem test_decode_setdir :
    decodePacket ⟨0b00100010_0000000_0_00000000_0000000_0, [1, 0xFFFFFFFF]⟩ = .ok (.setdir .e0 1 0xFFFFFFFF) := by
  rfl
theorem test_decode_settgt :
    decodePacket ⟨0b00100011_0000000_0_00000000_0000000_0, [100, 150]⟩ = .ok (.settgt .e0 100 150) := by rfl
theorem test_decode_settgta :
    decodePacket ⟨0b00100100_0000000_1_00000000_0000000_0, [1, 2, 3]⟩ = .ok (.settgta .e1 1 2 3) := by rfl
theorem test_decode_attgt : decodePacket ⟨0b00100101_0000000_0_00000000_0000000_0, []⟩ = .ok (.attgt .e0) := by rfl
theorem test_decode_advance :
    decodePacket ⟨0b00100110_0000000_0_00000000_0000000_1, []⟩ = .ok (.advance .e0 true) := by rfl

/- Vectors I1, I8, I9, I12, I13, I14: refused by name. -/
theorem test_decode_zero_word : decodePacket ⟨0x00000000, []⟩ = .error .unknownHeader := by rfl
theorem test_decode_short_setdir : decodePacket ⟨0x22000000, [1]⟩ = .error .operandCount := by rfl
theorem test_decode_reserved_bit : decodePacket ⟨0x26000002, []⟩ = .error .unknownHeader := by rfl
theorem test_decode_engine_on_decoder_register :
    decodePacket ⟨0x01010000, [1]⟩ = .error .engineOnDecoderRegister := by rfl
theorem test_decode_wide_palette_value : decodePacket ⟨0x03000000, [0, 0x00010000]⟩ = .error .operandTooWide := by
  rfl
theorem test_decode_wide_stream_value : decodePacket ⟨0x04000000, [0, 0x00000100]⟩ = .error .operandTooWide := by
  rfl

/- The host's view of a table word: the row's own word, its operand words 0. -/
theorem test_table_word_settgta : decodeTableWord 32 0x24000000 = some (.settgta .e0 0 0 0) := by rfl
theorem test_fetch_word_runs_first :
    responseOf (step (State.reset.withFetchWord 32 0x10000000)) = some ⟨0x00000002, []⟩ := by decide +kernel

/-! ### One step of each command -/

/-- G1. -/
theorem test_wrreg_stores : (nextOf (exec (.wrreg .e0 0x00 240) State.reset)).map (fun s => s.dec.width) = some 240 := by
  decide +kernel
/-- G17. -/
theorem test_wrreg_locked : responseOf (exec (.wrreg .e0 0x22 256) centred) = some ⟨0x00000003, []⟩ := by
  decide +kernel
/-- P2: DIR_V = -1 reads back as 0xFFFFFFFF. -/
theorem test_rdreg_direction :
    responseOf (exec (.rdreg .e0 0x35) (withEngine (placed 100 100 100 100 .positive .negative)))
      = some ⟨0x00000000, [0xFFFFFFFF]⟩ := by decide +kernel
/-- G9. -/
theorem test_rdreg_unwritten : responseOf (exec (.rdreg .e0 0x30) State.reset) = some ⟨0x00000003, []⟩ := by
  decide +kernel
/-- G12. -/
theorem test_wrpal_top : (nextOf (exec (.wrpal 255 0xFFFF) State.reset)).map (fun s => s.pal) = some [(255, 0xFFFF)] := by
  decide +kernel
/-- G13. -/
theorem test_wrpal_beyond : responseOf (exec (.wrpal 256 0) State.reset) = some ⟨0x00000003, []⟩ := by
  decide +kernel
/-- G14. -/
theorem test_wrpk_stores : (nextOf (exec (.wrpk 7 0xAB) State.reset)).map (fun s => s.pk) = some [(7, 0xAB)] := by
  decide +kernel
/-- P1: RDPX 3 answers 0xF8. -/
theorem test_rdpx_high_byte : responseOf (exec (.rdpx 3) decoded) = some ⟨0x00000000, [0x000000F8]⟩ := by
  decide +kernel
/-- R206's worked example: `RDPX 4` is refused with `BUF_LEN` = 4. -/
theorem test_rdpx_beyond : responseOf (exec (.rdpx 4) decoded) = some ⟨0x00000003, []⟩ := by decide +kernel
/-- V5: a straddling chunk, low byte first. -/
theorem test_decode_straddles :
    (nextOf (exec .decode v5)).map (fun s => s.px.map Prod.snd) = some [0x06, 0x06, 0x04, 0x04, 0x05, 0x05] := by
  decide +kernel
/-- V6. -/
theorem test_decode_out_of_range : responseOf (exec .decode v6) = some ⟨0x00000001, [0, 1]⟩ := by decide +kernel
/-- K3. -/
theorem test_construct : (nextOf (exec (.construct .e0) (withEngine bare))).map (fun s => s.me0.statusWord) = some 1 := by
  decide +kernel
/-- K2. -/
theorem test_construct_zero_area :
    responseOf (exec (.construct .e0) (withEngine { bare with dspH := 0 })) = some ⟨0x00000002, []⟩ := by
  decide +kernel
/-- The centre table of section 2.4: display 41, sprite 50 gives -5, the floor of -4.5. -/
theorem test_recenter_floors :
    (nextOf (exec (.recenter .e0) (withEngine { bare with sprW := 50, dspW := 41, configured := true }))).map
      (fun s => s.me0.posX) = some (some 0xFFFFFFFB) := by decide +kernel
/-- S3. -/
theorem test_setdir_signs :
    (nextOf (exec (.setdir .e0 0x80000000 0x7FFFFFFF) centred)).map (fun s => (s.me0.dirH, s.me0.dirV))
      = some (some .negative, some .positive) := by decide +kernel
/-- S6. -/
theorem test_settgt_any_pair :
    (nextOf (exec (.settgt .e0 0xFFFFFFF6 1000) centred)).map (fun s => (s.me0.tgtX, s.me0.tgtY))
      = some (some 0xFFFFFFF6, some 1000) := by decide +kernel
/-- J13: the unchanged axis is re-aimed at its old target. -/
theorem test_settgta_reaims_both_axes :
    (nextOf (exec (.settgta .e0 100 104 200) (withEngine (placed 120 80 100 100 .positive .positive)))).map
      (fun s => (s.me0.tgtX, s.me0.tgtY, s.me0.dirH, s.me0.dirV))
      = some (some 100, some 104, some .negative, some .positive) := by decide +kernel
/-- J3: a distance of exactly the tolerance is filtered. -/
theorem test_settgta_dead_zone_boundary :
    (nextOf (exec (.settgta .e0 103 100 200) centred)).map (fun s => s.me0.tgtX) = some (some 100) := by
  decide +kernel
/-- S8: no tolerance. -/
theorem test_attgt_exact :
    responseOf (exec (.attgt .e0) (withEngine (placed 100 100 101 100 .stop .stop))) = some ⟨0x00000000, []⟩ := by
  decide +kernel
/-- A1, the source's example X3. -/
theorem test_advance_bounces :
    responseOf (exec (.advance .e0 false) (withEngine (placed 195 100 0 0 .positive .stop)))
      = some ⟨0x00010000, [190, 100, 230, 100, 5, 40]⟩ := by decide +kernel
/-- A3: both strips, left and up. -/
theorem test_advance_two_strips :
    responseOf (exec (.advance .e0 false) (withEngine (placed 100 100 0 0 .negative .negative)))
      = some ⟨0x00030000, [95, 95, 135, 100, 5, 40, 100, 134, 40, 6]⟩ := by decide +kernel

/-! ### Witnesses: states and operands that meet the hypotheses of each statement -/

theorem witness_DecodeOfEncodeIsTheCommand : (Instr.wrreg .e0 0x04 9).wf = true := by decide
theorem witness_EncodeOfDecodeIsThePacket : decodePacket ⟨0x26010001, []⟩ = .ok (.advance .e1 true) := by rfl
theorem witness_AtMostOneRowSelectsAHeader :
    (⟨.rdreg, 0x02000000, 0xFFFE00FF, 0⟩ : OpRow) ∈ opcodeTable
      ∧ (⟨.rdreg, 0x02000000, 0xFFFE00FF, 0⟩ : OpRow).selects 0x02013900 = true := by decide +kernel

/-- One packet for each class of rule R96, in the statement's order. -/
theorem witness_IllegalPacketsAreRefused :
    (0xFF000000#32).extractLsb' 24 8 ∉ [0x01#8, 0x02, 0x03, 0x04, 0x05, 0x10, 0x20, 0x21, 0x22, 0x23, 0x24, 0x25, 0x26]
      ∧ (0x25800000#32).extractLsb' 17 7 ≠ 0 ∧ (0x26000002#32).extractLsb' 1 7 ≠ 0
      ∧ ((0x10010000#32).getLsbD 16 = true ∧ (0x10010000#32).extractLsb' 24 8 ∈ [0x03#8, 0x04, 0x05, 0x10])
      ∧ (0x20002000#32).extractLsb' 8 8 ≠ 0 ∧ (0x21000001#32).getLsbD 0 = true
      ∧ findRow 0x22000000 = some ⟨.setdir, 0x22000000, 0xFFFEFFFF, 2⟩
      ∧ ((0x01011F00#32).extractLsb' 8 8).toNat < 0x20 ∧ (0x01011F00#32).getLsbD 16 = true
      ∧ 2 ^ 16 ≤ (0x00010000#32).toNat ∧ 2 ^ 8 ≤ (0x00000100#32).toNat := by decide +kernel

theorem witness_StepRunsTheDecodedCommand :
    ({ centred with port := [⟨0x25000000, []⟩] } : State).port = ⟨0x25000000, []⟩ :: []
      ∧ decodePacket ⟨0x25000000, []⟩ = .ok (.attgt .e0) := ⟨rfl, rfl⟩
theorem witness_StepWithoutAPacketHoldsTheState : State.reset.port = [] := rfl
theorem witness_EveryPacketIsAnsweredOnce_legal :
    (∃ i, decodePacket ⟨0x25000000, []⟩ = .ok i) ∧ ∃ d, decodePacket ⟨0xFFFFFFFF, []⟩ = .error d :=
  ⟨⟨_, rfl⟩, ⟨_, rfl⟩⟩

theorem witness_RefusedCommandsChangeNothing :
    (responseOf (exec (.attgt .e0) State.reset)).map Response.code = some 3
      ∧ (responseOf (exec (.attgt .e0) centred)).map Response.code = some 0 := by decide +kernel
theorem witness_StepKeepsTheInvariant : (nextOf (step State.reset)).isSome = true := by decide +kernel
theorem witness_FirstCommandAfterReset :
    (Instr.rdreg .e1 (Reg.number .posX)).wf = true ∧ (Instr.rdreg .e0 (Reg.number .bufLen)).wf = true
      ∧ (Instr.wrreg .e1 (Reg.number .sprW) 1).wf = true ∧ Reg.access .sprW ≠ .readOnly
      ∧ (255#32).toNat < 256 := by decide +kernel

theorem witness_WrregStoresTheValue :
    (∀ r : Reg, r ∈ Reg.all → r.number ≠ 0x05) ∧ (Reg.number .decStatus = 0x08 ∧ Reg.access .decStatus = .readOnly)
      ∧ (Reg.number .dspH = 0x23 ∧ Reg.access .dspH = .untilConstruct ∧ (centred.engine .e0).configured = true)
      ∧ (Reg.access .dspH = .untilConstruct ∧ (State.reset.engine .e0).configured = false)
      ∧ (Instr.wrreg .e0 0x05 1).wf = true ∧ (Instr.wrreg .e1 0x26 1).wf = true ∧ Reg.number .jitTol = 0x26 := by
  decide +kernel
theorem witness_RdregReturnsTheRegister :
    (∀ r : Reg, r ∈ Reg.all → r.number ≠ 0x0D) ∧ (Instr.rdreg .e0 0x0D).wf = true
      ∧ State.reset.readReg .e0 .prevY = none ∧ centred.readReg .e0 .posX = some 100
      ∧ (Instr.rdreg .e1 0x37).wf = true := by decide +kernel
theorem witness_ReadBackOfFlagsCodesAndDirections :
    (placed 0 0 0 0 .stop .negative).dirH = some .stop ∧ (placed 0 0 0 0 .positive .positive).dirV = some .positive
      ∧ (placed 0 0 0 0 .positive .negative).dirH = some .positive
      ∧ (placed 0 0 0 0 .stop .negative).dirV = some .negative
      ∧ State.reset.dec.err = .ok ∧ Engine.reset.err = .ok
      ∧ (v1.dec.failed .paletteIndexOutOfRange 0 0).err = .paletteIndexOutOfRange
      ∧ (v1.dec.failed .configurationError 0 0).err = .configurationError
      ∧ ({ bare with err := .configurationError } : Engine).err = .configurationError := by decide +kernel

theorem witness_WrpalLoadsOneEntry : 256 ≤ (256#32).toNat ∧ (255#32).toNat < 256 := by decide
/-- The boundary of a small `PK_CAP`. -/
theorem witness_WrpkLoadsOneByte :
    let s : State := { State.reset with cfg := smallCaps }
    s.cfg.pkCap ≤ (8#32).toNat ∧ (7#32).toNat < s.cfg.pkCap := by decide
theorem witness_RdpxReturnsOneByte :
    v1.dec.bufValid = false ∧ decoded.dec.bufValid = true ∧ decoded.dec.bufLen.toNat ≤ (4#32).toNat
      ∧ (3#32).toNat < decoded.dec.bufLen.toNat ∧ decoded.px.read 3 = some 0xF8 := by decide +kernel

/-- An engine of the tests meets the invariant. -/
theorem placed_inv (px py tx ty : Word) (h v : Dir) : (placed px py tx ty h v).Inv where
  posX := rfl
  posY := rfl
  tgtX := rfl
  tgtY := rfl
  dirH := rfl
  dirV := rfl
  prevX := rfl
  prevY := rfl
  placed := fun _ => rfl
  advanced := fun h => by cases h
  geometry := fun _ => rfl
  err := by intro h; cases h

theorem reset_engine_inv : Engine.reset.Inv where
  posX := rfl
  posY := rfl
  tgtX := rfl
  tgtY := rfl
  dirH := rfl
  dirV := rfl
  prevX := rfl
  prevY := rfl
  placed := fun h => by cases h
  advanced := fun h => by cases h
  geometry := fun h => by cases h
  err := by intro h; cases h

/-- A state with a valid buffer, a loaded bitmap and unplaced engines meets the invariant. -/
theorem witness_ValidBufferIsReadable :
    decoded.Inv ∧ decoded.dec.bufValid = true ∧ (3#32).toNat < decoded.dec.bufLen.toNat :=
  ⟨{ cfg := rfl
     pkWf := by decide +kernel
     palWf := by decide +kernel
     pxWf := by decide +kernel
     pkWithin := by decide +kernel
     palWithin := by decide +kernel
     pxWithin := by decide +kernel
     dec :=
       { empty := by decide +kernel
         ok := by decide +kernel
         even := by decide +kernel
         fits := by decide +kernel
         filled := by decide +kernel
         positions := by decide +kernel }
     me0 := reset_engine_inv
     me1 := reset_engine_inv }, by decide +kernel, by decide +kernel⟩

theorem witness_AccessCommandsFrame :
    motionEngineOf (.wrpk 0 1) = none ∧ Instr.wrpk 0 1 ≠ .decode
      ∧ (nextOf (exec (.wrpk 0 1) v1)).isSome = true := by decide +kernel

/-- Each condition (a) to (f) of rule R121 at its boundary, and a consistent bitmap. -/
theorem witness_InconsistentBitmapIsAConfigurationError :
    defaultBpp Config.default
      ∧ ¬ (bitmap 0 5 4 2 0 [] []).dec.consistent Config.default
      ∧ ¬ (bitmap 2 1 9 2 3 [] []).dec.consistent Config.default
      ∧ ¬ (bitmap 2 1 4 257 1 [] []).dec.consistent Config.default
      ∧ v1.dec.consistent Config.default := by decide +kernel
theorem witness_InconsistentBitmapIsAConfigurationError_bounds :
    ¬ (bitmap 65536 32768 1 2 0x10000000 [] []).dec.consistent Config.default
      ∧ ¬ (bitmap 2 1 4 2 9 [] []).dec.consistent smallCaps
      ∧ ¬ (bitmap 3 1 3 8 1 [] []).dec.consistent Config.default := by decide +kernel

theorem witness_ScanComputesTheColorIndex :
    1 ≤ 3 ∧ 3 ≤ 8 ∧ ∀ a < 2, 2 * 3 / 8 ≤ a → a ≤ (2 * 3 + 3 - 1) / 8 → (v5.pk.read a).isSome = true := by
  decide +kernel
/-- The closed form gives the third index of V5. -/
theorem test_color_index_straddles : colorIndex v5.pk 3 2 = 5 := by decide +kernel

theorem witness_DecodeProducesThePixelBuffer :
    defaultBpp v5.cfg ∧ v5.dec.consistent v5.cfg ∧ v5.streamWritten ∧ ∀ p < v5.pixels, v5.pixelOk p := by
  decide +kernel
theorem witness_DecodeReportsTheFirstIndexOutOfRange :
    defaultBpp v6.cfg ∧ v6.dec.consistent v6.cfg ∧ v6.streamWritten ∧ 1 < v6.pixels
      ∧ (∀ p < 1, v6.pixelOk p) ∧ v6.dec.palLen.toNat ≤ v6.indexAt 1 := by decide +kernel
/-- V24 and V25. -/
theorem witness_DecodeRefusesUnwrittenInput :
    let a := bitmap 2 1 4 2 1 [] [(0, 0), (1, 0xF800)]
    let b := bitmap 2 1 4 2 1 [(0, 0x01)] [(0, 0)]
    (defaultBpp a.cfg ∧ a.dec.consistent a.cfg ∧ ¬ a.streamWritten)
      ∧ defaultBpp b.cfg ∧ b.dec.consistent b.cfg ∧ b.streamWritten ∧ 1 < b.pixels ∧ (∀ p < 1, b.pixelOk p)
      ∧ b.indexAt 1 < b.dec.palLen.toNat ∧ b.pal.read (b.indexAt 1) = none := by decide +kernel
/-- Outcomes with codes 0, 1, 2 and 3. -/
theorem witness_DecodeFrame :
    (responseOf (exec .decode v1)).map Response.code = some 0
      ∧ (responseOf (exec .decode v6)).map Response.code = some 1
      ∧ (responseOf (exec .decode State.reset)).map Response.code = some 2
      ∧ (responseOf (exec .decode (bitmap 2 1 4 2 1 [] []))).map Response.code = some 3 := by decide +kernel
/-- The same bitmap beside another engine state and another old buffer. -/
theorem witness_DecodeDependsOnTheBitmapOnly :
    sameBitmap v1 { decoded with me0 := bare } ∧ (nextOf (exec .decode v1)).isSome = true
      ∧ (nextOf (exec .decode { decoded with me0 := bare })).isSome = true :=
  ⟨⟨rfl, rfl, rfl, rfl, rfl, rfl, fun _ _ => rfl, fun _ _ => rfl⟩, by decide +kernel, by decide +kernel⟩
theorem witness_DecodingAgainGivesTheSameBuffer : responseOf (exec .decode v1) = some ⟨0x00000000, []⟩ := by
  decide +kernel
theorem witness_ErrorRegistersDescribeTheLatestCommand :
    (responseOf (exec (.construct .e0) (withEngine bare))).map Response.code = some 0
      ∧ (responseOf (exec (.construct .e0) State.reset)).map Response.code = some 2
      ∧ (responseOf (exec (.construct .e0) centred)).map Response.code = some 3 := by decide +kernel

theorem witness_EngineCommandsNeedConstructionAndPlacement :
    (centred.engine .e0).configured = true ∧ (State.reset.engine .e0).configured = false
      ∧ ((withEngine { bare with configured := true }).engine .e0).configured = true
      ∧ ((withEngine { bare with configured := true }).engine .e0).posValid = false := by decide +kernel
theorem witness_ConstructChecksTheGeometry :
    bare.configured = false ∧ (centred.engine .e0).configured = true ∧ ¬ (bare.sprW = 0 ∨ bare.sprH = 0 ∨ bare.dspW = 0 ∨ bare.dspH = 0)
      ∧ Engine.reset.sprW = 0 ∧ Engine.reset.configured = false := by decide +kernel
theorem witness_RecenterPlacesAtTheCentre :
    centred.cfg.centerFormula = .floorOfDifference ∧ (centred.engine .e0).configured = true
      ∧ ¬ ((centred.engine .e0).sprW = 0 ∨ (centred.engine .e0).sprH = 0 ∨ (centred.engine .e0).dspW = 0
        ∨ (centred.engine .e0).dspH = 0)
      ∧ ({ bare with sprW := 0, configured := true } : Engine).sprW = 0 := by decide +kernel
theorem witness_RecenterIsIdempotentAndAtTarget :
    responseOf (exec (.recenter .e0) centred) = some ⟨0x00000000, []⟩ := by decide +kernel
theorem witness_SetdirStoresTheSigns :
    (centred.engine .e0).configured = true ∧ (centred.engine .e0).posValid = true := by decide +kernel
theorem witness_SettgtOverwritesTheTarget :
    (centred.engine .e0).configured = true ∧ (centred.engine .e0).posValid = true :=
  witness_SetdirStoresTheSigns
theorem witness_AttgtComparesExactly :
    let m := centred.engine .e0
    m.configured = true ∧ m.posValid = true ∧ m.posX = some 100 ∧ m.posY = some 100 ∧ m.tgtX = some 100
      ∧ m.tgtY = some 100 := by decide +kernel
/-- Distances 3 and 4 at tolerance 3 (J3, J4), with the travel range 200 and `rangeMax` 200. -/
theorem witness_SettgtaAimsOutsideTheDeadZone :
    let m := centred.engine .e0
    let map (raw : Int) : Int := raw * ((m.dspW.toNat : Int) - m.sprW.toNat) / 200
    centred.cfg.analogRounding = .floor ∧ centred.cfg.jitterInclusive = true ∧ m.configured = true
      ∧ m.posValid = true ∧ m.posX = some 100 ∧ m.posY = some 100 ∧ m.tgtX = some 100 ∧ m.tgtY = some 100
      ∧ 0 < (200#32).toNat ∧ (104#32).toNat ≤ (200#32).toNat
      ∧ inS32 (map 103) ∧ inS32 (map 104) ∧ |map 103 - 100| ≤ m.jitTol.toNat ∧ (m.jitTol.toNat : Int) < |map 104 - 100| := by
  decide +kernel
/-- `rangeMax` = 0, a reading one above `rangeMax`, and a travel range of 2^31. -/
theorem witness_SettgtaAimsOutsideTheDeadZone_refusals :
    (0#32).toNat = 0 ∧ (200#32).toNat < (201#32).toNat
      ∧ ¬ inS32 ((1#32).toNat * (((0x80000001#32).toNat : Int) - (1#32).toNat) / (1#32).toNat)
      ∧ ¬ ((1#32).toNat = 0 ∨ (1#32).toNat < (1#32).toNat) := by decide +kernel
theorem witness_AnalogMapStaysInTheTravelRange :
    Config.default.analogRounding = .floor ∧ (0 : Int) < 200 ∧ (0 : Int) ≤ 103 ∧ (103 : Int) ≤ 104 ∧ (104 : Int) ≤ 200 := by
  decide +kernel

/-- A2's state, with a target, and A19's overflow. -/
theorem witness_AdvanceRunsOneTick :
    let m := placed 100 100 0 0 .positive .positive
    (withEngine m).cfg.lowEdgeCmp = .atOrBelow ∧ m.configured = true ∧ m.posValid = true ∧ m.posX = some 100
      ∧ m.posY = some 100 ∧ m.dirH = some .positive ∧ m.dirV = some .positive ∧ m.tgtX = some 0 ∧ m.tgtY = some 0
      ∧ (m.stepY.toNat : Int) + 1 < 2 ^ 32 ∧ inS32 ((100#32).toInt + 5) ∧ ¬ inS32 ((2147483645#32).toInt + 5) := by decide +kernel
/-- The vertical axis STOP while x moves, or y alone at its target while x overflows. -/
theorem witness_LargestStepOnAStoppedAxis :
    let a : Engine := { placed 100 100 0 0 .positive .stop with stepY := 0xFFFFFFFF }
    let b : Engine := { placed 2147483645 100 0 100 .positive .negative with stepY := 0xFFFFFFFF, dspW := 0xFFFFFFFF }
    (a.configured = true ∧ a.posValid = true ∧ a.posX = some 100 ∧ a.posY = some 100 ∧ a.dirH = some .positive
      ∧ a.dirV = some .stop ∧ a.stepY = 0xFFFFFFFF ∧ inS32 ((100#32).toInt + a.stepX.toNat)
      ∧ (withEngine a).cfg.lowEdgeCmp = .atOrBelow)
    ∧ b.configured = true ∧ b.posValid = true ∧ b.posX = some 2147483645 ∧ b.posY = some 100
      ∧ b.tgtX = some 0 ∧ b.tgtY = some 100 ∧ b.dirH = some .positive ∧ b.dirV = some .negative
      ∧ b.stepY = 0xFFFFFFFF ∧ ¬ inS32 ((2147483645#32).toInt + b.stepX.toNat) := by decide +kernel
/-- Moving left by 5 uncovers column 139 of a sprite 40 wide at 100. -/
theorem witness_StripsCoverTheUncoveredFootprint :
    let k := (placed 100 100 0 0 .negative .stop).tick Config.default false false 100 100 .negative .stop
    (100 ≤ (139 : Int) ∧ (139 : Int) < 100 + 40) ∧ k.posX = 95 ∧ ¬ (139 : Int) < 95 + 40 := by decide +kernel
theorem witness_BouncingSpriteStaysInTheTravelRange :
    let m := placed 195 0 0 0 .positive .negative
    (withEngine m).cfg.lowEdgeCmp = .atOrBelow ∧ m.configured = true ∧ m.posValid = true
      ∧ m.posX = some 195 ∧ m.posY = some 0 ∧ m.dirH = some .positive ∧ m.dirV = some .negative
      ∧ m.tgtX.isSome = true ∧ m.tgtY.isSome = true ∧ (2 * (m.stepX.toNat : Int) ≤ m.dspW.toNat - m.sprW.toNat) ∧ (2 * (m.stepY.toNat : Int) ≤ m.dspH.toNat - m.sprH.toNat)
      ∧ (m.dspW.toNat : Int) < 2 ^ 31 ∧ (195#32).toInt ≤ m.dspW.toNat - m.sprW.toNat ∧ 0 ≤ (0#32).toInt := by
  decide +kernel
theorem witness_SpriteAtItsTargetHalts :
    let m := placed 195 195 195 195 .positive .positive
    m.configured = true ∧ m.posValid = true ∧ m.posX = m.tgtX ∧ m.posY = m.tgtY ∧ m.dirH = some .positive
      ∧ m.dirV = some .positive := by decide +kernel
/-- The same x axis beside two y axes. -/
theorem witness_AdvanceAxesAreIndependent :
    let s := withEngine (placed 100 100 0 0 .positive .stop)
    let t := withEngine { placed 100 7 0 9 .positive .negative with stepY := 1 }
    s.cfg.lowEdgeCmp = t.cfg.lowEdgeCmp ∧ (s.engine .e0).posX = (t.engine .e0).posX
      ∧ (s.engine .e0).dirH = (t.engine .e0).dirH ∧ (s.engine .e0).stepX = (t.engine .e0).stepX
      ∧ (s.engine .e0).sprW = (t.engine .e0).sprW ∧ (s.engine .e0).dspW = (t.engine .e0).dspW
      ∧ (responseOf (exec (.advance .e0 false) s)).map Response.code = some 0
      ∧ (responseOf (exec (.advance .e0 false) t)).map Response.code = some 0 := by decide +kernel
theorem witness_EngineCommandsFrame :
    motionEngineOf (.advance .e0 true) = some .e0 ∧ (nextOf (exec (.advance .e0 true) centred)).isSome = true := by
  decide +kernel
theorem witness_EngineCommandsSeeTheirEngineOnly :
    centred.cfg = ({ centred with me1 := bare, px := [(0, 1)] } : State).cfg
      ∧ centred.engine .e0 = ({ centred with me1 := bare, px := [(0, 1)] } : State).engine .e0 := by decide +kernel
theorem witness_CommandsToTheTwoEnginesCommute :
    motionEngineOf (.attgt .e0) = some .e0 ∧ motionEngineOf (.construct .e1) = some .e1
      ∧ (nextOf (exec (.attgt .e0) centred)).isSome = true
      ∧ (nextOf (exec (.construct .e1) centred)).isSome = true := by decide +kernel
theorem witness_ConstructedGeometryNeverChanges :
    (centred.engine .e0).configured = true ∧ (nextOf (step centred)).isSome = true := by decide +kernel
theorem witness_EachMemoryHasOneWriter :
    (nextOf (step { State.reset with port := [⟨0x04000000, [7, 0xAB]⟩] })).map (fun s => s.pk) = some [(7, 0xAB)] := by
  decide +kernel

end Sys2Proof.Tests
end

section
/-! The decoder read backwards: what a packet that decodes looks like (30_encoding.md rules R92 to R95). -/

namespace Sys2Proof

/-! ### A selected row fixes the bits under its mask -/

theorem OpRow.extractLsb'_of_selects {r : OpRow} {h : Word} (hs : r.selects h = true) {start len : Nat}
    (hm : r.mask.extractLsb' start len = BitVec.allOnes len) :
    h.extractLsb' start len = r.pattern.extractLsb' start len := by
  have hp : h &&& r.mask = r.pattern := by simpa [OpRow.selects] using hs
  rw [← hp, BitVec.extractLsb'_and, hm, BitVec.and_allOnes]

/-- Field `OPC` of a header, bits 31 to 24 (rule R91). -/
abbrev opcField (h : Word) : BitVec 8 := h.extractLsb' 24 8

/-- Every row tests the whole of `OPC`. -/
theorem opcField_of_selects {r : OpRow} {h : Word} (hr : r ∈ opcodeTable) (hs : r.selects h = true) :
    opcField h = opcField r.pattern := by
  have masks : ∀ r ∈ opcodeTable, r.mask.extractLsb' 24 8 = BitVec.allOnes 8 := by decide
  exact OpRow.extractLsb'_of_selects hs (masks r hr)

theorem getLsbD_of_extractLsb'_eq_zero {h : Word} {k : Nat} (hz : h.extractLsb' k 1 = 0) :
    h.getLsbD k = false := by
  simpa using congrArg (fun b => b.getLsbD 0) hz

/-! ### Each stage of the decoder, when it succeeds -/

theorem operands0_eq_ok {f : Except DecodeError Instr} {ops : List Word} {i : Instr}
    (h : operands0 f ops = .ok i) : ops = [] ∧ f = .ok i := by
  unfold operands0 at h
  split at h
  · exact ⟨rfl, h⟩
  · cases h

theorem operands1_eq_ok {f : Word → Except DecodeError Instr} {ops : List Word} {i : Instr}
    (h : operands1 f ops = .ok i) : ∃ a, ops = [a] ∧ f a = .ok i := by
  unfold operands1 at h
  split at h
  · exact ⟨_, rfl, h⟩
  · cases h

theorem operands2_eq_ok {f : Word → Word → Except DecodeError Instr} {ops : List Word} {i : Instr}
    (h : operands2 f ops = .ok i) : ∃ a b, ops = [a, b] ∧ f a b = .ok i := by
  unfold operands2 at h
  split at h
  · exact ⟨_, _, rfl, h⟩
  · cases h

theorem checkEngine_eq_ok {i j : Instr} (h : checkEngine i = .ok j) : i.wf = true := by
  unfold checkEngine at h
  split at h
  · assumption
  · cases h

theorem narrowOperand_eq_ok {width : Nat} {v : Word} {c : BitVec width} (h : narrowOperand width v = .ok c) :
    v.toNat < 2 ^ width := by
  unfold narrowOperand at h
  split at h
  · assumption
  · cases h

theorem narrowOperand_map_eq_ok {width : Nat} {v : Word} {f : BitVec width → Instr} {i : Instr}
    (h : (narrowOperand width v).map f = .ok i) : v.toNat < 2 ^ width := by
  cases hn : narrowOperand width v with
  | error d => rw [hn] at h; cases h
  | ok c => exact narrowOperand_eq_ok hn

theorem findRow_eq_some {h : Word} {r : OpRow} (hf : findRow h = some r) :
    r ∈ opcodeTable ∧ r.selects h = true :=
  ⟨List.mem_of_find?_eq_some hf, by simpa using List.find?_some hf⟩

theorem decodePacket_eq_ok {p : Packet} {i : Instr} (h : decodePacket p = .ok i) :
    ∃ r, findRow p.header = some r ∧ p.operands.length = r.ops
      ∧ readFields r.op p.header p.operands = .ok i := by
  unfold decodePacket at h
  split at h
  · cases h
  · split at h
    · exact ⟨_, ‹_›, ‹_›, h⟩
    · cases h

theorem decodePacket_eq_ok_row {p : Packet} {i : Instr} (h : decodePacket p = .ok i) :
    ∃ r ∈ opcodeTable, r.selects p.header = true := by
  obtain ⟨r, hf, -, -⟩ := decodePacket_eq_ok h
  exact ⟨r, findRow_eq_some hf⟩

/-- The opcode chooses the command whose fields are read. -/
theorem decodePacket_eq_ok_fields {p : Packet} {i : Instr} (h : decodePacket p = .ok i) {op : Opcode}
    (hop : ∀ r ∈ opcodeTable, opcField r.pattern = opcField p.header → r.op = op) :
    readFields op p.header p.operands = .ok i := by
  obtain ⟨r, hf, -, hread⟩ := decodePacket_eq_ok h
  obtain ⟨hr, hs⟩ := findRow_eq_some hf
  rwa [hop r hr (opcField_of_selects hr hs).symm] at hread

/-! ### What a packet that decodes satisfies, one lemma per clause of rules R95 and R96 -/

section
variable {p : Packet} {i : Instr} (h : decodePacket p = .ok i)
include h

theorem opcField_mem_of_decodes :
    opcField p.header ∈ [0x01#8, 0x02, 0x03, 0x04, 0x05, 0x10, 0x20, 0x21, 0x22, 0x23, 0x24, 0x25, 0x26] := by
  obtain ⟨r, hr, hs⟩ := decodePacket_eq_ok_row h
  have rows : ∀ r ∈ opcodeTable, opcField r.pattern ∈
      [0x01#8, 0x02, 0x03, 0x04, 0x05, 0x10, 0x20, 0x21, 0x22, 0x23, 0x24, 0x25, 0x26] := by decide
  rw [opcField_of_selects hr hs]
  exact rows r hr

/-- A field is zero when every row that the opcode leaves possible tests all its bits against zero. -/
theorem field_eq_zero_of_decodes (start len : Nat) {P : BitVec 8 → Prop} (hopc : P (opcField p.header))
    (rows : ∀ r ∈ opcodeTable, P (opcField r.pattern) →
      r.mask.extractLsb' start len = BitVec.allOnes len ∧ r.pattern.extractLsb' start len = 0) :
    p.header.extractLsb' start len = 0 := by
  obtain ⟨r, hr, hs⟩ := decodePacket_eq_ok_row h
  obtain ⟨hm, hz⟩ := rows r hr (opcField_of_selects hr hs ▸ hopc)
  rw [OpRow.extractLsb'_of_selects hs hm, hz]

theorem reservedHigh_eq_zero_of_decodes : p.header.extractLsb' 17 7 = 0 :=
  field_eq_zero_of_decodes h 17 7 (P := fun _ => True) trivial (by decide)

theorem reservedLow_eq_zero_of_decodes : p.header.extractLsb' 1 7 = 0 :=
  field_eq_zero_of_decodes h 1 7 (P := fun _ => True) trivial (by decide)

theorem engBit_eq_false_of_decodes (hopc : opcField p.header ∈ [0x03#8, 0x04, 0x05, 0x10]) :
    p.header.getLsbD 16 = false :=
  getLsbD_of_extractLsb'_eq_zero
    (field_eq_zero_of_decodes h 16 1 (P := fun opc => opc ∈ [0x03#8, 0x04, 0x05, 0x10]) hopc (by decide))

theorem regField_eq_zero_of_decodes (hw : opcField p.header ≠ 0x01) (hr : opcField p.header ≠ 0x02) :
    p.header.extractLsb' 8 8 = 0 :=
  field_eq_zero_of_decodes h 8 8 (P := fun opc => opc ≠ 0x01 ∧ opc ≠ 0x02) ⟨hw, hr⟩ (by decide)

theorem stopBit_eq_false_of_decodes (hadv : opcField p.header ≠ 0x26) : p.header.getLsbD 0 = false :=
  getLsbD_of_extractLsb'_eq_zero (field_eq_zero_of_decodes h 0 1 (P := fun opc => opc ≠ 0x26) hadv (by decide))

theorem operandCount_of_decodes {r : OpRow} (hf : findRow p.header = some r) : p.operands.length = r.ops := by
  obtain ⟨q, hq, hlen, -⟩ := decodePacket_eq_ok h
  obtain rfl : r = q := Option.some.inj (hf.symm.trans hq)
  exact hlen

theorem engineRegister_of_decodes (hopc : opcField p.header = 0x01 ∨ opcField p.header = 0x02)
    (heng : p.header.getLsbD 16 = true) : ¬ (p.header.extractLsb' 8 8).toNat < 0x20 := by
  have he : engField p.header = .e1 := by simp [engField, heng]
  suffices hd : isDecoderNumber (regField p.header) = false from of_decide_eq_false hd
  rcases hopc with hopc | hopc
  · have hread := decodePacket_eq_ok_fields h (op := .wrreg) (by rw [hopc]; decide)
    obtain ⟨v, -, hc⟩ := operands1_eq_ok hread
    simpa [Instr.wf, he] using checkEngine_eq_ok hc
  · have hread := decodePacket_eq_ok_fields h (op := .rdreg) (by rw [hopc]; decide)
    simpa [Instr.wf, he] using checkEngine_eq_ok (operands0_eq_ok hread).2

theorem wrpalValue_lt_of_decodes (hopc : opcField p.header = 0x03) {a v : Word} (hops : p.operands = [a, v]) :
    v.toNat < 2 ^ 16 := by
  have hread := decodePacket_eq_ok_fields h (op := .wrpal) (by rw [hopc]; decide)
  rw [hops] at hread
  exact narrowOperand_map_eq_ok hread

theorem wrpkValue_lt_of_decodes (hopc : opcField p.header = 0x04) {a v : Word} (hops : p.operands = [a, v]) :
    v.toNat < 2 ^ 8 := by
  have hread := decodePacket_eq_ok_fields h (op := .wrpk) (by rw [hopc]; decide)
  rw [hops] at hread
  exact narrowOperand_map_eq_ok hread

end

end Sys2Proof
end

section
/-! Illegal packets are refused (30_encoding.md rule R96). -/

namespace Sys2Proof.Machine

theorem State.answered_refused (s : State) (r : RefuseReason) : s.answered (.refused r) = s.refusedFor r := by
  simp [State.answered, State.refusedFor]

theorem step_of_decode_error {s : State} {p : Packet} {rest : List Packet} {d : DecodeError}
    (hp : s.port = p :: rest) (hd : decodePacket p = .error d) :
    step s = .next (({ s with port := rest } : State).refusedFor .illegal) := by
  simp only [step, State.takePacket_cons hp, hd, refuse_eq, State.answered_refused]

/-- Settles O6: a packet that decodes meets none of the clauses, so the packet at hand does not decode. -/
theorem illegalPacketsAreRefused : Obligations.IllegalPacketsAreRefused := by
  unfold Obligations.IllegalPacketsAreRefused
  intro p s rest hp opc reg hill
  cases hdec : decodePacket p with
  | error d => exact step_of_decode_error hp hdec
  | ok i =>
    exfalso
    rcases hill with h | h | h | ⟨heng, hopc⟩ | ⟨hreg, hw, hr⟩ | ⟨hs, hadv⟩ | ⟨r, hf, hlen⟩
      | ⟨hopc, hreg, heng⟩ | ⟨hopc, a, v, hops, hv⟩ | ⟨hopc, a, v, hops, hv⟩
    · exact h (opcField_mem_of_decodes hdec)
    · exact h (reservedHigh_eq_zero_of_decodes hdec)
    · exact h (reservedLow_eq_zero_of_decodes hdec)
    · exact absurd (engBit_eq_false_of_decodes hdec hopc) (by simp [heng])
    · exact hreg (regField_eq_zero_of_decodes hdec hw hr)
    · exact absurd (stopBit_eq_false_of_decodes hdec hadv) (by simp [hs])
    · exact hlen (operandCount_of_decodes hdec hf)
    · exact engineRegister_of_decodes hdec hopc heng hreg
    · exact absurd (wrpalValue_lt_of_decodes hdec hopc hops) (Nat.not_lt.mpr hv)
    · exact absurd (wrpkValue_lt_of_decodes hdec hopc hops) (Nat.not_lt.mpr hv)

end Sys2Proof.Machine
end

section
/-! Every packet gets one response of the right form and length (30_encoding.md rules R100 to R103). -/

namespace Sys2Proof.Machine

/-! ### Every command ends -/

/-- Every branch of every command's meaning is an `answer`, so it gives a next state (assumption 15). -/
theorem exec_total (i : Instr) (s : State) : ∃ t, exec i s = .next t := by
  cases i <;>
    simp only [exec, execWrreg, execRdreg, execWrpal, execWrpk, execRdpx, execDecode, execConstruct, execRecenter,
      execSetdir, execSettgt, execSettgta, execAttgt, execAdvance, commitTick]
  all_goals repeat' split
  all_goals exact ⟨_, rfl⟩

/-! ### Which answer a command gives -/

/-- The answers a command may end with: FLAG belongs to ATTGT, a move to ADVANCE, and an OK carries the data
words of its command (rules R101, R102); an error or a refusal is open to every command. -/
def Answer.Suits (i : Instr) : Answer → Prop
  | .ok data => data.length = dataLength i 0
  | .flag _ => ∃ e, i = .attgt e
  | .moved _ _ _ _ => ∃ e b, i = .advance e b
  | .paletteIndexOutOfRange _ _ | .configurationError | .refused _ => True

@[simp] theorem State.writeReg_port (s : State) (e : EngineId) (r : Reg) (v : Word) :
    (s.writeReg e r v).port = s.port := by
  obtain ⟨d, h⟩ | ⟨m, h⟩ := s.writeReg_cases e r v <;> simp [h]

/-- A command that is not refused leaves the port alone and ends with an answer that suits it. -/
theorem effect_answered {i : Instr} {s t : State} (h : effect s t i) :
    ∃ (a : Answer) (u : State), t = u.answered a ∧ a.Suits i ∧ u.port = s.port := by
  cases i with
  | wrreg => obtain ⟨-, r, -, -, -, rfl⟩ := h; exact ⟨_, _, rfl, rfl, by simp⟩
  | rdreg => obtain ⟨r, v, -, -, rfl⟩ := h; exact ⟨_, _, rfl, rfl, rfl⟩
  | wrpal => obtain ⟨-, rfl⟩ := h; exact ⟨_, _, rfl, rfl, rfl⟩
  | wrpk => obtain ⟨-, rfl⟩ := h; exact ⟨_, _, rfl, rfl, rfl⟩
  | rdpx => obtain ⟨-, -, b, -, rfl⟩ := h; exact ⟨_, _, rfl, rfl, rfl⟩
  | decode =>
    obtain ⟨-, rfl⟩ | ⟨-, -, ⟨b, p, -, rfl⟩ | ⟨out, -, rfl⟩⟩ := h
    · exact ⟨_, _, rfl, trivial, rfl⟩
    · exact ⟨_, _, rfl, trivial, rfl⟩
    · exact ⟨_, _, rfl, rfl, rfl⟩
  | construct =>
    obtain ⟨-, ⟨-, rfl⟩ | ⟨-, rfl⟩⟩ := h
    · exact ⟨_, _, rfl, trivial, by simp⟩
    · exact ⟨_, _, rfl, rfl, by simp⟩
  | recenter =>
    obtain ⟨-, ⟨-, rfl⟩ | ⟨-, rfl⟩⟩ := h
    · exact ⟨_, _, rfl, trivial, by simp⟩
    · exact ⟨_, _, rfl, rfl, by simp⟩
  | setdir => obtain ⟨-, rfl⟩ := h; exact ⟨_, _, rfl, rfl, by simp⟩
  | settgt => obtain ⟨-, rfl⟩ := h; exact ⟨_, _, rfl, rfl, by simp⟩
  | settgta =>
    obtain ⟨-, px, py, tx, ty, -, -, -, -, ⟨-, -, rfl⟩ | ⟨-, rfl⟩⟩ := h
    · exact ⟨_, _, rfl, rfl, rfl⟩
    · exact ⟨_, _, rfl, rfl, by simp⟩
  | attgt => obtain ⟨-, px, py, tx, ty, -, -, rfl⟩ := h; exact ⟨_, _, rfl, ⟨_, rfl⟩, rfl⟩
  | advance =>
    obtain ⟨-, px, py, hd, vd, stopX, stopY, -, -, -, -, -, rfl⟩ := h
    exact ⟨_, _, rfl, ⟨_, _, rfl⟩, by simp⟩

theorem exec_answered (i : Instr) (s : State) :
    ∃ (a : Answer) (u : State), exec i s = .next (u.answered a) ∧ a.Suits i ∧ u.port = s.port := by
  obtain ⟨t, ht⟩ := exec_total i s
  obtain ⟨r, rfl⟩ | he := exec_cases ht
  · exact ⟨.refused r, s, ht, trivial, rfl⟩
  · obtain ⟨a, u, rfl, ha, hu⟩ := effect_answered he
    exact ⟨a, u, ht, ha, hu⟩

/-! ### The response packet of an answer -/

/-- The status word of ADVANCE's OK: code 0, and `RV`, `RH` as given. -/
theorem statusWord_moved (rv rh : Bool) :
    (statusWord 0 false rv rh).toNat % 256 = 0 ∧ statusWord 0 false rv rh &&& 0xFFFCFE00 = 0
      ∧ (statusWord 0 false rv rh).getLsbD 8 = false
      ∧ (statusWord 0 false rv rh).getLsbD 16 = rv ∧ (statusWord 0 false rv rh).getLsbD 17 = rh := by
  revert rv rh
  decide

theorem Answer.moved_response (x y : Word) (v h : Option Rect) : (Answer.moved x y v h).response
    = ⟨statusWord 0 false v.isSome h.isSome, [x, y] ++ stripWords v ++ stripWords h⟩ := rfl

theorem stripWords_length (o : Option Rect) : (stripWords o).length = if o.isSome then 4 else 0 := by
  cases o <;> rfl

/-- The status word has a code of 0 to 3 and zero reserved bits, and nothing beside a code other than 0. -/
def Response.StatusLegal (r : Response) : Prop :=
  r.code ≤ 3 ∧ r.status &&& 0xFFFCFE00 = 0 ∧ (r.code ≠ 0 → r.status.toNat ≤ 3)

theorem Answer.response_statusLegal (a : Answer) : a.response.StatusLegal := by
  unfold Response.StatusLegal Response.code
  cases a with
  | moved x y v h =>
    obtain ⟨hcode, hres, -⟩ := statusWord_moved v.isSome h.isSome
    simp only [Answer.moved_response, hcode]
    exact ⟨by omega, hres, by simp⟩
  | flag v => cases v <;> simp
  | ok | paletteIndexOutOfRange | configurationError | refused => simp

/-- The response fits its command: as many data words as `dataLength` says, `FLAG` only of ATTGT, `RV` and
`RH` only of ADVANCE. -/
def Response.FitsCommand (r : Response) (i : Instr) : Prop :=
  r.data.length = dataLength i r.status
    ∧ ((∀ e, i ≠ .attgt e) → r.status.getLsbD 8 = false)
    ∧ ((∀ e b, i ≠ .advance e b) → r.status.getLsbD 16 = false ∧ r.status.getLsbD 17 = false)

theorem Answer.Suits.fitsCommand {a : Answer} {i : Instr} (ha : a.Suits i) : a.response.FitsCommand i := by
  unfold Response.FitsCommand
  cases a with
  | ok data => exact ⟨ha, by simp, by simp⟩
  | flag v =>
    obtain ⟨e, rfl⟩ := ha
    cases v <;> simp [dataLength]
  | moved x y v h =>
    obtain ⟨e, b, rfl⟩ := ha
    obtain ⟨hcode, -, hflag, hrv, hrh⟩ := statusWord_moved v.isSome h.isSome
    simp only [Answer.moved_response]
    refine ⟨?_, fun _ => hflag, fun hne => absurd rfl (hne e b)⟩
    simp only [dataLength, hcode, hrv, hrh, List.length_append, stripWords_length]
    rfl
  | paletteIndexOutOfRange | configurationError | refused => simp [dataLength]

/-- Settles O9: an illegal packet is refused, a command ends with an answer that suits it, and the response
of an answer is legal. -/
theorem everyPacketIsAnsweredOnce : Obligations.EveryPacketIsAnsweredOnce := by
  unfold Obligations.EveryPacketIsAnsweredOnce
  intro s p rest hp
  cases hdec : decodePacket p with
  | error d =>
    obtain ⟨hcode, hres, hzero⟩ := (Answer.refused .illegal).response_statusLegal
    exact ⟨_, _, step_of_decode_error hp hdec, rfl, rfl, hcode, hres, hzero, nofun, fun _ _ => rfl⟩
  | ok i =>
    obtain ⟨a, u, hexec, ha, hu⟩ := exec_answered i { s with port := rest }
    have hstep : step s = .next (u.answered a) := by simp only [step, State.takePacket_cons hp, hdec, hexec]
    obtain ⟨hcode, hres, hzero⟩ := a.response_statusLegal
    refine ⟨_, _, hstep, hu, rfl, hcode, hres, hzero, ?_, nofun⟩
    rintro j ⟨⟩
    exact ha.fitsCommand

end Sys2Proof.Machine
end

section
/-! The scan of DECODE reads the stream as its closed form does (40_decoder.md rules R122 to R124): the
byte-and-mask loop takes the next bits of the stream, whatever byte boundaries they cross. -/

namespace Sys2Proof.Machine

/-! ### Stream bits as numbers -/

/-- The `n` stream bits from bit `g` on, read as a number with the first bit the highest. -/
def streamChunk (pk : Memory 8) (g n : Nat) : Nat :=
  ∑ k ∈ Finset.range n, streamBit pk (g + k) * 2 ^ (n - 1 - k)

/-- The cursor whose next unread bit is stream bit `g`. -/
def cursorAtBit (g : Nat) : Cursor := ⟨g / 8, 8 - g % 8⟩

theorem colorIndex_eq_streamChunk (pk : Memory 8) (b p : Nat) :
    colorIndex pk b p = streamChunk pk (p * b) b := rfl

theorem cursorAt_eq_cursorAtBit (b p : Nat) : cursorAt b p = cursorAtBit (p * b) := rfl

@[simp] theorem streamChunk_zero (pk : Memory 8) (g : Nat) : streamChunk pk g 0 = 0 := rfl

theorem streamChunk_add (pk : Memory 8) (g m n : Nat) :
    streamChunk pk g (m + n) = streamChunk pk g m * 2 ^ n + streamChunk pk (g + m) n := by
  unfold streamChunk
  rw [Finset.sum_range_add, Finset.sum_mul]
  congr 1 <;> refine Finset.sum_congr rfl fun k hk => ?_ <;> rw [Finset.mem_range] at hk
  · rw [mul_assoc, ← pow_add, show m + n - 1 - k = m - 1 - k + n by omega]
  · rw [add_assoc, show m + n - 1 - (m + k) = n - 1 - k by omega]

theorem streamChunk_succ (pk : Memory 8) (g n : Nat) :
    streamChunk pk g (n + 1) = streamChunk pk g n * 2 + streamBit pk (g + n) := by
  rw [streamChunk_add]
  simp [streamChunk]

theorem streamBit_of_read {pk : Memory 8} {g : Nat} {b : Byte} (hb : pk.read (g / 8) = some b) :
    streamBit pk g = b.toNat / 2 ^ (7 - g % 8) % 2 := by
  simp [streamBit, hb]

/-- Bits that lie within one byte are a field of that byte. -/
theorem streamChunk_of_read {pk : Memory 8} {g n : Nat} {b : Byte} (hb : pk.read (g / 8) = some b)
    (hn : g % 8 + n ≤ 8) : streamChunk pk g n = b.toNat / 2 ^ (8 - g % 8 - n) % 2 ^ n := by
  induction n with
  | zero => simp [Nat.mod_one]
  | succ n ih =>
    have hdiv : (g + n) / 8 = g / 8 := by omega
    have hpos : 7 - (g + n) % 8 = 8 - g % 8 - (n + 1) := by omega
    have hexp : 8 - g % 8 - n = 8 - g % 8 - (n + 1) + 1 := by omega
    rw [streamChunk_succ, ih (by omega), streamBit_of_read (hdiv ▸ hb), hpos, hexp, pow_succ,
      ← Nat.div_div_eq_div_mul, pow_succ', Nat.mod_mul]
    omega

/-! ### One bit group -/

/-- The bit group that a round of `unpackChunk` takes from byte `b`. -/
theorem bitGroup_eq_streamChunk {pk : Memory 8} {g : Nat} {b : Byte} (hb : pk.read (g / 8) = some b)
    (need : Nat) :
    (if 8 - g % 8 ≤ need then b.toNat &&& (2 ^ (8 - g % 8) - 1)
      else (b.toNat &&& (2 ^ (8 - g % 8) - 1)) >>> (8 - g % 8 - need))
      = streamChunk pk g (min (8 - g % 8) need) := by
  rw [Nat.and_two_pow_sub_one_eq_mod]
  split
  next h =>
    rw [min_eq_left h, streamChunk_of_read hb (by omega)]
    simp
  next h =>
    have hsplit : 2 ^ (8 - g % 8) = 2 ^ (8 - g % 8 - need) * 2 ^ need := by rw [← pow_add]; congr 1; omega
    rw [min_eq_right (by omega), streamChunk_of_read hb (by omega), Nat.shiftRight_eq_div_pow, hsplit,
      Nat.mod_mul_right_div_self]

theorem streamChunk_lt_of_read {pk : Memory 8} {g n : Nat} {b : Byte} (hb : pk.read (g / 8) = some b)
    (hn : g % 8 + n ≤ 8) : streamChunk pk g n < 2 ^ n := by
  rw [streamChunk_of_read hb hn]
  exact Nat.mod_lt _ (Nat.two_pow_pos n)

/-- The cursor after a round that leaves `left` bits of the byte unread. -/
theorem cursorAtBit_add {g take : Nat} (h : g % 8 + take ≤ 8) :
    (if 8 - g % 8 - take = 0 then (⟨g / 8 + 1, 8⟩ : Cursor) else ⟨g / 8, 8 - g % 8 - take⟩)
      = cursorAtBit (g + take) := by
  unfold cursorAtBit
  split <;> (congr 1 <;> omega)

/-- One round of rule R123's loop: it takes what the byte still has, or what the index still needs. -/
theorem unpackChunk_succ {pk : Memory 8} {g : Nat} {b : Byte} (hb : pk.read (g / 8) = some b)
    (fuel idx : Nat) {need : Nat} (hneed : need ≠ 0) :
    unpackChunk pk (fuel + 1) (cursorAtBit g) need idx
      = unpackChunk pk fuel (cursorAtBit (g + min (8 - g % 8) need)) (need - min (8 - g % 8) need)
          (idx * 2 ^ min (8 - g % 8) need + streamChunk pk g (min (8 - g % 8) need)) := by
  have hin : g % 8 + min (8 - g % 8) need ≤ 8 := by omega
  rw [← cursorAtBit_add hin, ← Nat.shiftLeft_eq, Nat.shiftLeft_add_eq_or_of_lt (streamChunk_lt_of_read hb hin),
    ← bitGroup_eq_streamChunk hb]
  simp only [unpackChunk, cursorAtBit, hb, if_neg hneed, Nat.min_def]
  rfl

/-- Every stream byte that holds one of the `n` bits from bit `g` on holds a value. -/
def bitsWritten (pk : Memory 8) (g n : Nat) : Prop :=
  ∀ a, g / 8 ≤ a → 8 * a < g + n → (pk.read a).isSome = true

/-- Rule R124 for any stretch of bits: the loop appends them to the index and moves the cursor past them. -/
theorem unpackChunk_cursorAtBit {pk : Memory 8} {fuel g need : Nat} (idx : Nat) (hfuel : need ≤ fuel)
    (hw : bitsWritten pk g need) :
    unpackChunk pk fuel (cursorAtBit g) need idx
      = some (idx * 2 ^ need + streamChunk pk g need, cursorAtBit (g + need)) := by
  induction fuel generalizing g need idx with
  | zero =>
    obtain rfl : need = 0 := by omega
    simp [unpackChunk]
  | succ fuel ih =>
    by_cases hneed : need = 0
    · subst hneed
      simp [unpackChunk]
    · obtain ⟨b, hb⟩ := Option.isSome_iff_exists.1 (hw (g / 8) le_rfl (by omega))
      rw [unpackChunk_succ hb fuel idx hneed]
      generalize htake : min (8 - g % 8) need = take
      obtain ⟨rest, rfl⟩ : ∃ rest, need = take + rest := ⟨need - take, by omega⟩
      rw [Nat.add_sub_cancel_left, ih _ (by omega) fun a ha han => hw a (by omega) (by omega),
        streamChunk_add, pow_add, add_assoc g, add_mul, mul_assoc, add_assoc]

/-- Rule R124: from the top of pixel `p` the loop reads the pixel's colour index, and ends at the top of
pixel `p + 1`. -/
theorem unpackChunk_cursorAt {pk : Memory 8} {b p : Nat} (hw : bitsWritten pk (p * b) b) :
    unpackChunk pk b (cursorAt b p) b 0 = some (colorIndex pk b p, cursorAt b (p + 1)) := by
  rw [cursorAt_eq_cursorAtBit, unpackChunk_cursorAtBit 0 le_rfl hw, colorIndex_eq_streamChunk,
    cursorAt_eq_cursorAtBit, add_one_mul, zero_mul, zero_add]

end Sys2Proof.Machine
end

section
/-! What the scan of a bitmap ends in (40_decoder.md rules R123, R125, R126), pixel by pixel. -/

namespace Sys2Proof.Machine

/-- The scan with `left` pixels to go, the next of them pixel `p`. -/
def State.scanFrom (s : State) (left p : Nat) : ScanResult :=
  scanPixels s.pk s.pal s.dec.bpp.toNat s.dec.palLen.toNat left p (cursorAt s.dec.bpp.toNat p)

theorem scan_eq_scanFrom (s : State) : scan s = s.scanFrom s.pixels 0 := by
  simp [scan, State.scanFrom, State.pixels, cursorAt]

theorem State.scanFrom_zero (s : State) (p : Nat) : s.scanFrom 0 p = .done [] := rfl

/-- A written stream has the bytes of every pixel of the bitmap. -/
theorem State.bitsWritten_of_streamWritten {s : State} (hw : s.streamWritten) {p : Nat} (hp : p < s.pixels) :
    bitsWritten s.pk (p * s.dec.bpp.toNat) s.dec.bpp.toNat := by
  intro a _ ha
  have hle : (p + 1) * s.dec.bpp.toNat ≤ s.pixels * s.dec.bpp.toNat := Nat.mul_le_mul_right _ hp
  rw [add_one_mul] at hle
  exact hw a (by omega)

/-- A pixel that decodes puts its palette entry's two bytes before those of the pixels after it. -/
theorem State.scanFrom_succ_of_ok {s : State} (hw : s.streamWritten) (left : Nat) {p : Nat} {v : Colour}
    (hp : p < s.pixels) (hidx : s.indexAt p < s.dec.palLen.toNat) (hv : s.pal.read (s.indexAt p) = some v) :
    s.scanFrom (left + 1) p = (s.scanFrom left (p + 1)).cons v := by
  unfold State.indexAt at hidx hv
  simp only [State.scanFrom, scanPixels, unpackChunk_cursorAt (s.bitsWritten_of_streamWritten hw hp),
    if_neg (Nat.not_le.2 hidx), hv]

/-- A pixel out of range ends the scan with the byte of its first bit and its number. -/
theorem State.scanFrom_succ_of_outOfRange {s : State} (hw : s.streamWritten) (left : Nat) {p : Nat}
    (hp : p < s.pixels) (hidx : s.dec.palLen.toNat ≤ s.indexAt p) :
    s.scanFrom (left + 1) p = .outOfRange (p * s.dec.bpp.toNat / 8) p := by
  unfold State.indexAt at hidx
  simp only [State.scanFrom, scanPixels, unpackChunk_cursorAt (s.bitsWritten_of_streamWritten hw hp), if_pos hidx]
  rfl

/-- `out` holds the two bytes of each of the `n` pixels from `p` on, low byte first (rule R126). -/
def State.pixelBytes (s : State) (p n : Nat) (out : List Byte) : Prop :=
  out.length = 2 * n ∧ ∀ i v, i < n → s.pal.read (s.indexAt (p + i)) = some v →
    out[2 * i]? = some (v.extractLsb' 0 8) ∧ out[2 * i + 1]? = some (v.extractLsb' 8 8)

theorem State.pixelBytes_nil (s : State) (p : Nat) : s.pixelBytes p 0 [] :=
  ⟨rfl, fun i _ hi => absurd hi (Nat.not_lt_zero i)⟩

theorem State.pixelBytes.cons {s : State} {p n : Nat} {out : List Byte} {v : Colour}
    (h : s.pixelBytes (p + 1) n out) (hv : s.pal.read (s.indexAt p) = some v) :
    s.pixelBytes p (n + 1) (v.extractLsb' 0 8 :: v.extractLsb' 8 8 :: out) := by
  obtain ⟨hlen, hbytes⟩ := h
  refine ⟨by simp only [List.length_cons, hlen]; omega, fun i u hi hu => ?_⟩
  cases i with
  | zero =>
    obtain rfl : v = u := by simpa [hv] using hu
    exact ⟨rfl, rfl⟩
  | succ i => exact hbytes i u (by omega) (by rwa [show p + 1 + i = p + (i + 1) by omega])

/-- A stretch of pixels that all decode gives their bytes. -/
theorem State.scanFrom_done {s : State} (hw : s.streamWritten) {left p : Nat} (hp : p + left ≤ s.pixels)
    (hok : ∀ i, p ≤ i → i < p + left → s.pixelOk i) :
    ∃ out, s.scanFrom left p = .done out ∧ s.pixelBytes p left out := by
  induction left generalizing p with
  | zero => exact ⟨[], s.scanFrom_zero p, s.pixelBytes_nil p⟩
  | succ left ih =>
    obtain ⟨hidx, hpal⟩ := hok p le_rfl (by omega)
    obtain ⟨v, hv⟩ := Option.isSome_iff_exists.1 hpal
    obtain ⟨out, hscan, hbytes⟩ := ih (p := p + 1) (by omega) fun i hi hlt => hok i (by omega) (by omega)
    exact ⟨_, by rw [s.scanFrom_succ_of_ok hw left (by omega) hidx hv, hscan]; rfl, hbytes.cons hv⟩

/-- The pixels before `q` decode and `q` is out of range: the scan stops there. -/
theorem State.scanFrom_outOfRange {s : State} (hw : s.streamWritten) {left p q : Nat} (hp : p + left ≤ s.pixels)
    (hpq : p ≤ q) (hq : q < p + left) (hok : ∀ i, p ≤ i → i < q → s.pixelOk i)
    (hidx : s.dec.palLen.toNat ≤ s.indexAt q) :
    s.scanFrom left p = .outOfRange (q * s.dec.bpp.toNat / 8) q := by
  induction left generalizing p with
  | zero => omega
  | succ left ih =>
    by_cases hlt : p < q
    · obtain ⟨hin, hpal⟩ := hok p le_rfl hlt
      obtain ⟨v, hv⟩ := Option.isSome_iff_exists.1 hpal
      rw [s.scanFrom_succ_of_ok hw left (by omega) hin hv,
        ih (p := p + 1) (by omega) hlt (by omega) fun i hi => hok i (by omega)]
      rfl
    · obtain rfl : p = q := by omega
      exact s.scanFrom_succ_of_outOfRange hw left (by omega) hidx

end Sys2Proof.Machine
end

section
/-! DECODE past its checks (40_decoder.md rules R121, R129) ends as its scan does, with the PixelBuffer
(rules R126, R127) or with the first index out of range (rules R125, R128). -/

namespace Sys2Proof.Machine

/-! ### The checks before the scan -/

theorem Decoder.inconsistent_eq_false_iff {d : Decoder} {c : Config} (hb : defaultBpp c) :
    d.inconsistent c = false ↔ d.consistent c := by
  obtain ⟨hmin, hmax, hdiv⟩ := hb
  simp only [Decoder.inconsistent, Config.bppRejected, hmin, hmax, hdiv, Nat.mul_assoc 2, Bool.false_and,
    Bool.or_false, Bool.or_eq_false_iff, decide_eq_false_iff_not, not_lt, and_assoc]
  rfl

theorem State.filled_iff_streamWritten (s : State) :
    s.pk.filled (streamNeed s.dec.width.toNat s.dec.height.toNat s.dec.bpp.toNat) = true ↔ s.streamWritten := by
  simp [Memory.filled, streamNeed, State.streamWritten, State.pixels]

/-! ### The outcome by the end of the scan -/

section
variable {s : State} (hb : defaultBpp s.cfg) (hc : s.dec.consistent s.cfg) (hw : s.streamWritten)
include hb hc hw

theorem exec_decode_of_done {out : List Byte} (h : scan s = .done out) :
    exec .decode s
      = .next (((s.setDec (s.dec.succeeded out.length)).setPx (s.px.writeAll 0 out)).answered (.ok [])) := by
  simp [exec, execDecode, (Decoder.inconsistent_eq_false_iff hb).2 hc, s.filled_iff_streamWritten.2 hw, h, answer_eq]

theorem exec_decode_of_outOfRange {b p : Nat} (h : scan s = .outOfRange b p) :
    exec .decode s
      = .next ((s.setDec
          (s.dec.failed .paletteIndexOutOfRange (BitVec.ofNat 32 b) (BitVec.ofNat 32 p))).loosePx.answered
            (.paletteIndexOutOfRange (BitVec.ofNat 32 b) (BitVec.ofNat 32 p))) := by
  simp [exec, execDecode, (Decoder.inconsistent_eq_false_iff hb).2 hc, s.filled_iff_streamWritten.2 hw, h, answer_eq]

end

/-! ### The PixelBuffer -/

/-- Rule R121(e) keeps `2 * W * H` within a word. -/
theorem Decoder.consistent.two_mul_pixels_lt {s : State} (hc : s.dec.consistent s.cfg) :
    2 * s.pixels < 2 ^ 32 := by
  obtain ⟨-, -, -, -, -, hfit, -⟩ := hc
  unfold State.pixels
  omega

/-- Settles O27: the scan gives the bytes of every pixel, and the commit writes them from `PX[0]` on. -/
theorem decodeProducesThePixelBuffer : Obligations.DecodeProducesThePixelBuffer := by
  unfold Obligations.DecodeProducesThePixelBuffer
  intro s hb hc hw hok
  obtain ⟨out, hscan, hlen, hbytes⟩ :=
    s.scanFrom_done hw (Nat.zero_add _).le fun p _ hp => hok p (by omega)
  rw [← scan_eq_scanFrom] at hscan
  refine ⟨s.px.writeAll 0 out, ?_, Nat.mod_eq_of_lt hc.two_mul_pixels_lt, fun p v hp hv => ?_, fun a ha => ?_⟩
  · rw [exec_decode_of_done hb hc hw hscan, hlen]
    rfl
  · obtain ⟨hlow, hhigh⟩ := hbytes p v hp (by rwa [Nat.zero_add])
    rw [Memory.read_writeAll, Memory.read_writeAll, if_pos (by omega), if_pos (by omega), Nat.sub_zero, Nat.sub_zero,
      hlow, hhigh, BitVec.setWidth_eq_extractLsb' (by decide), BitVec.setWidth_ushiftRight_eq_extractLsb]
    exact ⟨rfl, rfl⟩
  · rw [Memory.read_writeAll, if_neg (by omega)]

/-! ### The first index out of range -/

/-- Settles O28: the scan stops at pixel `q`, whose number and byte both fit a word. -/
theorem decodeReportsTheFirstIndexOutOfRange : Obligations.DecodeReportsTheFirstIndexOutOfRange := by
  unfold Obligations.DecodeReportsTheFirstIndexOutOfRange
  intro s q hb hc hw hq hok hidx byte pix
  have hscan : scan s = .outOfRange (q * s.dec.bpp.toNat / 8) q := by
    rw [scan_eq_scanFrom]
    exact s.scanFrom_outOfRange hw (Nat.zero_add _).le q.zero_le (by omega) (fun p _ hp => hok p hp) hidx
  have hexec := exec_decode_of_outOfRange hb hc hw hscan
  have hfit := hc.two_mul_pixels_lt
  obtain ⟨-, -, -, hbpp, -⟩ := hc
  have hbyte : q * s.dec.bpp.toNat ≤ q * 8 := Nat.mul_le_mul_left q hbpp
  refine ⟨_, _, hexec, Nat.mod_eq_of_lt ?_, Nat.mod_eq_of_lt ?_⟩ <;> omega

end Sys2Proof.Machine
end

section
/-! What the parameters compute at their values of 00_scope.md rule R8. -/

namespace Sys2Proof

theorem Config.center_of_floorOfDifference {c : Config} (hc : c.centerFormula = .floorOfDifference)
    (display sprite : Int) : c.center display sprite = (display - sprite) / 2 := by
  simp only [Config.center, hc]

theorem Config.outsideJitter_of_inclusive {c : Config} (hc : c.jitterInclusive = true) (mapped target tol : Int) :
    c.outsideJitter mapped target tol = decide (tol < |mapped - target|) := by
  simp only [Config.outsideJitter, hc, if_true]

theorem Config.atLowEdge_congr {c c' : Config} (h : c.lowEdgeCmp = c'.lowEdgeCmp) : c.atLowEdge = c'.atLowEdge := by
  funext v
  simp only [Config.atLowEdge, h]

end Sys2Proof
end

section
/-! Words as numbers (00_scope.md rules R9, R11): when a number fits, its word gives it back. -/

namespace Sys2Proof.Machine

theorem fitsS32_iff (v : Int) : fitsS32 v = true ↔ inS32 v := by
  simp [fitsS32, inS32]
  omega

theorem fitsU32_iff (v : Int) : fitsU32 v = true ↔ 0 ≤ v ∧ v < 2 ^ 32 := by
  simp [fitsU32]
  omega

theorem inS32_s32 (w : Word) : inS32 (s32 w) := ⟨BitVec.le_toInt w, BitVec.toInt_lt⟩

theorem u32_lt (w : Word) : u32 w < 2 ^ 32 := Int.ofNat_lt.mpr w.isLt

theorem u32_nonneg (w : Word) : 0 ≤ u32 w := Int.natCast_nonneg _

theorem s32_word {v : Int} (h : inS32 v) : s32 (word v) = v :=
  BitVec.toInt_ofInt_eq_self (by decide) h.1 h.2

@[simp] theorem word_s32 (w : Word) : word (s32 w) = w := BitVec.ofInt_toInt

@[simp] theorem word_u32 (w : Word) : word (u32 w) = w :=
  (BitVec.ofInt_natCast 32 w.toNat).trans (by simp)

theorem word_add (a b : Int) : word (a + b) = word a + word b := BitVec.ofInt_add a b

theorem s32_inj {a b : Word} : s32 a = s32 b ↔ a = b := BitVec.toInt_inj

/-- The sign of a distance compares its two ends. -/
theorem sgn_sub (a b : Int) :
    sgn (a - b) = if a < b then .negative else if a = b then .stop else .positive := by
  simp only [sgn, sub_neg, sub_eq_zero]

end Sys2Proof.Machine
end

section
/-! How a command ends, in the words of the statements (30_encoding.md rules R101 to R103), and the
preconditions of the engine commands (41_motion.md rules R151, R152). -/

namespace Sys2Proof.Machine

theorem refuse_eq_refusedFor (r : RefuseReason) (s : State) : refuse r s = .next (s.refusedFor r) := by
  rw [refuse_eq, State.answered_refused]

theorem answer_ok_eq_okWith (data : List Word) (s : State) : answer (.ok data) s = .next (s.okWith data) := by
  simp [answer_eq, State.answered, State.okWith]

theorem answer_configurationError_eq_configError (s : State) :
    answer .configurationError s = .next s.configError := by
  simp [answer_eq, State.answered, State.configError]

theorem answer_flag_eq_respond (b : Bool) (s : State) :
    answer (.flag b) s = .next (s.respond (if b then 0x00000100 else 0x00000000) []) := by
  simp [answer_eq, State.answered, State.respond]

theorem Engine.zeroGeometry_iff (m : Engine) :
    m.zeroGeometry = true ↔ m.sprW = 0 ∨ m.sprH = 0 ∨ m.dspW = 0 ∨ m.dspH = 0 := by
  simp only [Engine.zeroGeometry, Bool.or_eq_true, beq_iff_eq, or_assoc]

theorem Engine.notReady_of_not_configured {m : Engine} (hc : m.configured = false) :
    m.notReady = some .notConstructed := by
  simp [Engine.notReady, hc]

theorem Engine.notReady_of_not_posValid {m : Engine} (hc : m.configured = true) (hp : m.posValid = false) :
    m.notReady = some .unwritten := by
  simp [Engine.notReady, hc, hp]

/-- The engine of a command that needs CONSTRUCT and RECENTER before it (rule R151). -/
def placementEngineOf : Instr → Option EngineId
  | .setdir e _ _ | .settgt e _ _ | .settgta e _ _ _ | .attgt e | .advance e _ => some e
  | .wrreg _ _ _ | .rdreg _ _ | .wrpal _ _ | .wrpk _ _ | .rdpx _ | .decode | .construct _ | .recenter _ => none

/-- Each of the five commands looks at its precondition first. -/
theorem exec_of_notReady {i : Instr} {e : EngineId} {s : State} {r : RefuseReason}
    (hi : placementEngineOf i = some e) (hr : (s.engine e).notReady = some r) :
    exec i s = .next (s.refusedFor r) := by
  rw [← refuse_eq_refusedFor]
  cases i with
  | setdir | settgt | settgta | attgt | advance =>
    obtain rfl := Option.some.inj hi
    simp only [exec, execSetdir, execSettgt, execSettgta, execAttgt, execAdvance, hr]
  | wrreg | rdreg | wrpal | wrpk | rdpx | decode | construct | recenter => cases hi

theorem refusesUnlessPlaced_of_placementEngineOf {i : Instr} {e : EngineId} (hi : placementEngineOf i = some e)
    (s : State) : refusesUnlessPlaced i e s :=
  ⟨fun hc => exec_of_notReady hi (Engine.notReady_of_not_configured hc),
    fun hc hp => exec_of_notReady hi (Engine.notReady_of_not_posValid hc hp)⟩

theorem exec_construct_of_configured {e : EngineId} {s : State} (hc : (s.engine e).configured = true) :
    exec (.construct e) s = .next (s.refusedFor .alreadyConstructed) := by
  simp only [exec, execConstruct, hc, if_true, refuse_eq_refusedFor]

theorem exec_recenter_of_not_configured {e : EngineId} {s : State} (hc : (s.engine e).configured = false) :
    exec (.recenter e) s = .next (s.refusedFor .notConstructed) := by
  simp only [exec, execRecenter, hc, Bool.not_false, if_true, refuse_eq_refusedFor]

/-- Settles O34: CONSTRUCT and RECENTER by their own first check, the other five by `notReady`. -/
theorem engineCommandsNeedConstructionAndPlacement : Obligations.EngineCommandsNeedConstructionAndPlacement := by
  unfold Obligations.EngineCommandsNeedConstructionAndPlacement
  intro e s x y z stop m
  have placing : ∀ i ∈ [.setdir e x y, .settgt e x y, .settgta e x y z, .attgt e, .advance e stop],
      placementEngineOf i = some e := by
    simp [placementEngineOf]
  refine ⟨exec_construct_of_configured, fun hc i hi => ?_, fun hc hp i hi =>
    exec_of_notReady (placing i hi) (Engine.notReady_of_not_posValid hc hp)⟩
  rcases List.mem_cons.1 hi with rfl | hi
  · exact exec_recenter_of_not_configured hc
  · exact exec_of_notReady (placing i hi) (Engine.notReady_of_not_configured hc)

/-! ### Construction and placement -/

section
variable {e : EngineId} {s : State}

theorem exec_construct_of_zeroGeometry (hc : (s.engine e).configured = false)
    (hz : (s.engine e).zeroGeometry = true) :
    exec (.construct e) s = .next (s.setEngine e { s.engine e with err := .configurationError }).configError := by
  simp only [exec, execConstruct, hc, hz, if_true, answer_configurationError_eq_configError]
  rfl

theorem exec_construct_of_geometry (hc : (s.engine e).configured = false)
    (hz : (s.engine e).zeroGeometry = false) :
    exec (.construct e) s = .next ((s.setEngine e { s.engine e with
      configured := true, posValid := false, prevValid := false, err := .ok }).okWith []) := by
  simp only [exec, execConstruct, hc, hz, answer_ok_eq_okWith]
  rfl

theorem exec_recenter_of_zeroGeometry (hc : (s.engine e).configured = true)
    (hz : (s.engine e).zeroGeometry = true) :
    exec (.recenter e) s = .next (s.setEngine e { s.engine e with err := .configurationError }).configError := by
  simp only [exec, execRecenter, hc, hz, if_true, answer_configurationError_eq_configError]
  rfl

theorem exec_recenter_of_geometry (hc : (s.engine e).configured = true)
    (hz : (s.engine e).zeroGeometry = false) :
    exec (.recenter e) s = .next ((s.setEngine e ((s.engine e).placedAt
      (s.cfg.center (u32 (s.engine e).dspW) (u32 (s.engine e).sprW))
      (s.cfg.center (u32 (s.engine e).dspH) (u32 (s.engine e).sprH)))).okWith []) := by
  simp only [exec, execRecenter, hc, hz, answer_ok_eq_okWith]
  rfl

end

/-- Settles O35: the branches of CONSTRUCT are those of the statement. -/
theorem constructChecksTheGeometry : Obligations.ConstructChecksTheGeometry := by
  unfold Obligations.ConstructChecksTheGeometry
  intro e s m
  refine ⟨by cases e <;> rfl, ?_⟩
  split_ifs with hc hz
  · exact exec_construct_of_configured hc
  · exact exec_construct_of_zeroGeometry (Bool.eq_false_iff.2 hc) (m.zeroGeometry_iff.2 hz)
  · exact exec_construct_of_geometry (Bool.eq_false_iff.2 hc) (Bool.eq_false_iff.2 (mt m.zeroGeometry_iff.1 hz))

/-- The centre of a `u32` display and sprite fits `s32`, whatever they are (rule R155). -/
theorem inS32_centre (display sprite : Word) : inS32 ((u32 display - u32 sprite) / 2) := by
  have hd := u32_lt display
  have hs := u32_lt sprite
  have hd0 := u32_nonneg display
  have hs0 := u32_nonneg sprite
  unfold inS32
  omega

/-- Settles O36: the centre's word reads back as the centre, since it always fits. -/
theorem recenterPlacesAtTheCentre : Obligations.RecenterPlacesAtTheCentre := by
  unfold Obligations.RecenterPlacesAtTheCentre
  intro e s m hformula
  refine ⟨by cases e <;> rfl, ?_⟩
  split_ifs with hc hz
  · exact exec_recenter_of_not_configured hc
  · exact exec_recenter_of_zeroGeometry (Bool.not_eq_false _ ▸ hc) (m.zeroGeometry_iff.2 hz)
  · have hexec := exec_recenter_of_geometry (Bool.not_eq_false _ ▸ hc)
      (Bool.eq_false_iff.2 (mt m.zeroGeometry_iff.1 hz))
    simp only [Config.center_of_floorOfDifference hformula] at hexec
    exact ⟨_, _, s32_word (inS32_centre m.dspW m.sprW), s32_word (inS32_centre m.dspH m.sprH), hexec⟩

/-! ### Direction, target and the test for it -/

section
variable {e : EngineId} {s : State} (hr : (s.engine e).notReady = none)
include hr

theorem exec_setdir_of_ready (h v : Word) :
    exec (.setdir e h v) s = .next ((s.setEngine e { s.engine e with
      dirH := some (sgn (s32 h)), dirV := some (sgn (s32 v)) }).okWith []) := by
  simp only [exec, execSetdir, hr, answer_ok_eq_okWith]

theorem exec_settgt_of_ready (x y : Word) :
    exec (.settgt e x y) s = .next ((s.setEngine e { s.engine e with
      tgtX := some x, tgtY := some y }).okWith []) := by
  simp only [exec, execSettgt, hr, answer_ok_eq_okWith]

theorem exec_attgt_of_ready {px py tx ty : Word}
    (hpx : (s.engine e).posX = some px) (hpy : (s.engine e).posY = some py)
    (htx : (s.engine e).tgtX = some tx) (hty : (s.engine e).tgtY = some ty) :
    exec (.attgt e) s
      = .next (s.respond (if px = tx ∧ py = ty then 0x00000100 else 0x00000000) []) := by
  simp only [exec, execAttgt, hr, hpx, hpy, htx, hty, readPoint_some, s32_inj, answer_flag_eq_respond,
    decide_eq_true_eq]

end

/-- Settles O38: a placed engine takes the sign of each operand. -/
theorem setdirStoresTheSigns : Obligations.SetdirStoresTheSigns := by
  unfold Obligations.SetdirStoresTheSigns
  intro e h v s m
  exact ⟨by cases e <;> rfl, refusesUnlessPlaced_of_placementEngineOf rfl s,
    fun hc hp => exec_setdir_of_ready (Engine.notReady_of_placed hc hp) h v⟩

/-- Settles O39: a placed engine takes the pair as it is. -/
theorem settgtOverwritesTheTarget : Obligations.SettgtOverwritesTheTarget := by
  unfold Obligations.SettgtOverwritesTheTarget
  intro e x y s m
  exact ⟨by cases e <;> rfl, refusesUnlessPlaced_of_placementEngineOf rfl s,
    fun hc hp => exec_settgt_of_ready (Engine.notReady_of_placed hc hp) x y⟩

/-- Settles O40: two words are equal when the numbers they carry are. -/
theorem attgtComparesExactly : Obligations.AttgtComparesExactly := by
  unfold Obligations.AttgtComparesExactly
  intro e s px py tx ty m
  exact ⟨by cases e <;> rfl, refusesUnlessPlaced_of_placementEngineOf rfl s,
    fun hc hp => exec_attgt_of_ready (Engine.notReady_of_placed hc hp)⟩

end Sys2Proof.Machine
end

section
/-! The linear map from a reading to the travel range (41_motion.md rule R163), with floor rounding. -/

namespace Sys2Proof

section
variable {c : Config} (hc : c.analogRounding = .floor)
include hc

theorem Config.analogMap_of_floor (raw range rangeMax : Int) :
    c.analogMap raw range rangeMax = raw * range / rangeMax := by
  simp only [Config.analogMap, hc]

theorem Config.analogMap_eq_floor (raw range : Int) {rangeMax : Int} (hm : 0 ≤ rangeMax) :
    c.analogMap raw range rangeMax = ⌊(raw * range : ℚ) / rangeMax⌋ := by
  rw [c.analogMap_of_floor hc, Int.floor_div_cast_of_nonneg hm, ← Int.cast_mul, Int.floor_intCast]

theorem Config.analogMap_zero (range rangeMax : Int) : c.analogMap 0 range rangeMax = 0 := by
  simp [c.analogMap_of_floor hc]

theorem Config.analogMap_rangeMax (range : Int) {rangeMax : Int} (hm : rangeMax ≠ 0) :
    c.analogMap rangeMax range rangeMax = range := by
  rw [c.analogMap_of_floor hc, Int.mul_ediv_cancel_left _ hm]

theorem Config.analogMap_monotone {range rangeMax raw raw' : Int} (hm : 0 < rangeMax) (hrange : 0 ≤ range)
    (hraw : raw ≤ raw') : c.analogMap raw range rangeMax ≤ c.analogMap raw' range rangeMax := by
  rw [c.analogMap_of_floor hc, c.analogMap_of_floor hc]
  exact Int.ediv_le_ediv hm (mul_le_mul_of_nonneg_right hraw hrange)

theorem Config.analogMap_antitone {range rangeMax raw raw' : Int} (hm : 0 < rangeMax) (hrange : range ≤ 0)
    (hraw : raw ≤ raw') : c.analogMap raw' range rangeMax ≤ c.analogMap raw range rangeMax := by
  rw [c.analogMap_of_floor hc, c.analogMap_of_floor hc]
  exact Int.ediv_le_ediv hm (mul_le_mul_of_nonpos_right hraw hrange)

/-- Between its two ends the map stays between 0 and the travel range, whichever is the larger. -/
theorem Config.analogMap_mem_travelRange {range rangeMax raw : Int} (hm : 0 < rangeMax) (h0 : 0 ≤ raw)
    (hraw : raw ≤ rangeMax) :
    min 0 range ≤ c.analogMap raw range rangeMax ∧ c.analogMap raw range rangeMax ≤ max 0 range := by
  have hlow := c.analogMap_zero hc range rangeMax
  have htop := c.analogMap_rangeMax hc range hm.ne'
  rcases le_total 0 range with hr | hr
  · have h1 := c.analogMap_monotone hc hm hr h0
    have h2 := c.analogMap_monotone hc hm hr hraw
    omega
  · have h1 := c.analogMap_antitone hc hm hr h0
    have h2 := c.analogMap_antitone hc hm hr hraw
    omega

end

/-- Settles O42: floor division keeps the order, and the two ends bound the rest. -/
theorem analogMapStaysInTheTravelRange : Obligations.AnalogMapStaysInTheTravelRange := by
  unfold Obligations.AnalogMapStaysInTheTravelRange
  intro c raw raw' range rangeMax hc hm h0 hraw hmax
  obtain ⟨hlow, htop⟩ := c.analogMap_mem_travelRange (range := range) hc hm h0 (hraw.trans hmax)
  refine ⟨c.analogMap_eq_floor hc raw range hm.le, c.analogMap_zero hc range rangeMax,
    c.analogMap_rangeMax hc range hm.ne', fun hr => c.analogMap_monotone hc hm hr hraw, hlow, htop, ?_⟩
  simp only [c.analogMap_of_floor hc]
  decide

end Sys2Proof
end

section
/-! SETTGTA (41_motion.md rules R162 to R166): the domain, the overflow, the dead zone and the new aim. -/

namespace Sys2Proof.Machine

section
variable {e : EngineId} {s : State} {px py tx ty : Word} (hr : (s.engine e).notReady = none)
  (hpx : (s.engine e).posX = some px) (hpy : (s.engine e).posY = some py)
  (htx : (s.engine e).tgtX = some tx) (hty : (s.engine e).tgtY = some ty)
include hr hpx hpy htx hty

theorem exec_settgta_of_ready {rawX rawY rangeMax : Word} {mx my : Int}
    (hmx : s.cfg.analogMap (u32 rawX) (u32 (s.engine e).dspW - u32 (s.engine e).sprW) (u32 rangeMax) = mx)
    (hmy : s.cfg.analogMap (u32 rawY) (u32 (s.engine e).dspH - u32 (s.engine e).sprH) (u32 rangeMax) = my) :
    exec (.settgta e rawX rawY rangeMax) s
      = if rangeMax.toNat = 0 ∨ rangeMax.toNat < rawX.toNat ∨ rangeMax.toNat < rawY.toNat then
          .next (s.refusedFor .domain)
        else if ¬ (inS32 mx ∧ inS32 my) then .next (s.refusedFor .overflow)
        else
          let chX := s.cfg.outsideJitter mx (s32 tx) (u32 (s.engine e).jitTol)
          let chY := s.cfg.outsideJitter my (s32 ty) (u32 (s.engine e).jitTol)
          if chX = false ∧ chY = false then .next (s.okWith [])
          else .next ((s.setEngine e
            ((s.engine e).aimed chX chY mx my (s32 px) (s32 py) (s32 tx) (s32 ty))).okWith []) := by
  simp only [exec, execSettgta, hr, hpx, hpy, htx, hty, readPoint_some, hmx, hmy, refuse_eq_refusedFor,
    answer_ok_eq_okWith, Bool.not_eq_true', Bool.and_eq_true, ← Bool.not_eq_true, fitsS32_iff]

end

/-- The target register on one axis after SETTGTA: the mapped value where it passed the filter. -/
def aimedTarget (changed : Bool) (mapped : Int) (target : Word) : Word := if changed then word mapped else target

theorem s32_aimedTarget {mapped : Int} (h : inS32 mapped) (changed : Bool) (target : Word) :
    s32 (aimedTarget changed mapped target) = if changed then mapped else s32 target := by
  rw [aimedTarget, apply_ite s32, s32_word h]

/-- Both directions are the sign from the position to the target as just updated (rule R165). -/
theorem Engine.aimed_eq {m : Engine} {tx ty : Word} (htx : m.tgtX = some tx) (hty : m.tgtY = some ty) {mx my : Int}
    (hmx : inS32 mx) (hmy : inS32 my) (chX chY : Bool) (px py : Int) :
    m.aimed chX chY mx my px py (s32 tx) (s32 ty) = { m with
      tgtX := some (aimedTarget chX mx tx), tgtY := some (aimedTarget chY my ty)
      dirH := some (sgn (s32 (aimedTarget chX mx tx) - px))
      dirV := some (sgn (s32 (aimedTarget chY my ty) - py)) } := by
  rw [s32_aimedTarget hmx, s32_aimedTarget hmy]
  simp only [Engine.aimed, htx, hty, aimedTarget, apply_ite some]

/-- Settles O41: the branches of SETTGTA are those of the statement, and the new target's words read back as
the numbers that the directions are taken from. -/
theorem settgtaAimsOutsideTheDeadZone : Obligations.SettgtaAimsOutsideTheDeadZone := by
  unfold Obligations.SettgtaAimsOutsideTheDeadZone
  intro e rawX rawY rangeMax s px py tx ty m i mx my tol nx ny
  refine ⟨by cases e <;> rfl, refusesUnlessPlaced_of_placementEngineOf rfl s,
    fun hround hincl hc hp hpx hpy htx hty => ?_⟩
  have hexec := exec_settgta_of_ready (Engine.notReady_of_placed hc hp) hpx hpy htx hty (mx := mx) (my := my)
    (Config.analogMap_of_floor hround _ _ _) (Config.analogMap_of_floor hround _ _ _)
  simp only [Config.outsideJitter_of_inclusive hincl, decide_eq_false_iff_not, not_lt] at hexec
  split
  next hdom => exact hexec.trans (if_pos hdom)
  next hdom =>
  rw [if_neg hdom] at hexec
  split
  next hover => exact hexec.trans (if_pos hover)
  next hover =>
  rw [if_neg hover] at hexec
  split
  next hdead => exact hexec.trans (if_pos hdead)
  next hdead =>
  replace hexec := hexec.trans (if_neg hdead)
  obtain ⟨hmx, hmy⟩ := not_not.1 hover
  have hwx := s32_aimedTarget hmx (decide (u32 m.jitTol < |mx - s32 tx|)) tx
  have hwy := s32_aimedTarget hmy (decide (u32 m.jitTol < |my - s32 ty|)) ty
  rw [Engine.aimed_eq htx hty hmx hmy, sgn_sub, sgn_sub, hwx, hwy] at hexec
  simp only [decide_eq_true_eq] at hwx hwy hexec
  exact ⟨_, _, hwx, hwy, hexec⟩

end Sys2Proof.Machine
end

section
/-! One tick of ADVANCE (41_motion.md rules R170 to R179): each axis's new direction and coordinate, what
fits, and the response. -/

namespace Sys2Proof.Machine

/-! ### One axis -/

/-- Rules R171 and R172 with the default `LOW_EDGE_CMP`, as one chain of conditions. -/
theorem tickDir_of_atOrBelow {c : Config} (hlow : c.lowEdgeCmp = .atOrBelow) (stopped : Prop) [Decidable stopped]
    (d : Dir) (pos step sprite display : Int) :
    tickDir c (decide stopped) d pos step sprite display
      = if stopped then .stop
        else if d = .positive ∧ pos + step + sprite ≥ display then .negative
        else if d = .negative ∧ pos - step ≤ 0 then .positive
        else d := by
  by_cases hs : stopped
  · simp [tickDir, hs]
  · cases d <;> simp [tickDir, hs, Config.atLowEdge, hlow]

theorem tickPos_eq (d : Dir) (pos step : Int) :
    tickPos d pos step = if d = .positive then pos + step else if d = .negative then pos - step else pos := by
  cases d <;> simp [tickPos, Dir.toInt, sub_eq_add_neg]

/-! ### The strips of the old footprint -/

theorem Strip.fits_iff (r : Strip) :
    r.fits = true ↔ inS32 r.x ∧ inS32 r.y ∧ (0 ≤ r.w ∧ r.w < 2 ^ 32) ∧ (0 ≤ r.h ∧ r.h < 2 ^ 32) := by
  simp only [Strip.fits, Bool.and_eq_true, fitsS32_iff, fitsU32_iff, and_assoc]

theorem stripFits_ite {p : Prop} [Decidable p] (r : Strip) :
    stripFits (if p then some r else none) = true ↔ (p → r.fits = true) := by
  split <;> simp_all [stripFits]

theorem stripWords_ite {p : Prop} [Decidable p] (r : Strip) :
    stripWords ((if p then some r else none).map Strip.toRect) = if p then r.toRect.words else [] := by
  split <;> rfl

section
variable (d : Dir) (wx wy step sprW sprH : Word)

/-- Of the vertical strip only its x can fail to fit. -/
theorem verticalStrip_fits_iff :
    (verticalStrip d (s32 wx) (s32 wy) (u32 step) (u32 sprW) (u32 sprH)).fits = true
      ↔ inS32 (verticalStrip d (s32 wx) (s32 wy) (u32 step) (u32 sprW) (u32 sprH)).x := by
  rw [Strip.fits_iff]
  exact and_iff_left ⟨inS32_s32 wy, ⟨u32_nonneg step, u32_lt step⟩, u32_nonneg sprH, u32_lt sprH⟩

/-- Of the horizontal strip only its y and its height can fail to fit. -/
theorem horizontalStrip_fits_iff :
    (horizontalStrip d (s32 wx) (s32 wy) (u32 step) (u32 sprW) (u32 sprH)).fits = true
      ↔ inS32 (horizontalStrip d (s32 wx) (s32 wy) (u32 step) (u32 sprW) (u32 sprH)).y ∧ u32 step + 1 < 2 ^ 32 := by
  have hstep : 0 ≤ u32 step + 1 := Int.add_nonneg (u32_nonneg step) (by decide)
  rw [Strip.fits_iff]
  exact ⟨fun ⟨_, hy, _, _, hh⟩ => ⟨hy, hh⟩,
    fun ⟨hy, hh⟩ => ⟨inS32_s32 wx, hy, ⟨u32_nonneg sprW, u32_lt sprW⟩, hstep, hh⟩⟩

theorem verticalStrip_words :
    (verticalStrip d (s32 wx) (s32 wy) (u32 step) (u32 sprW) (u32 sprH)).toRect.words
      = [word (verticalStrip d (s32 wx) (s32 wy) (u32 step) (u32 sprW) (u32 sprH)).x, wy, step, sprH] := by
  simp [Strip.toRect, Rect.words, verticalStrip]

theorem horizontalStrip_words :
    (horizontalStrip d (s32 wx) (s32 wy) (u32 step) (u32 sprW) (u32 sprH)).toRect.words
      = [wx, word (horizontalStrip d (s32 wx) (s32 wy) (u32 step) (u32 sprW) (u32 sprH)).y, sprW, step + 1] := by
  have hone : word 1 = 1 := rfl
  simp [Strip.toRect, Rect.words, horizontalStrip, word_add, hone]

end

/-! ### The whole tick -/

theorem commitTick_of_not_fits {e : EngineId} {px py : Int} {k : Tick} {s : State} (hk : ¬ k.fits = true) :
    commitTick e px py k s = .next (s.refusedFor .overflow) := by
  simp only [commitTick, Bool.not_eq_true', Bool.not_eq_true _ ▸ hk, if_true, refuse_eq_refusedFor]

/-- `RV` and `RH` of ADVANCE's status word say which strips follow (rules R101, R102). -/
theorem answer_moved_eq_respond (x y : Word) (v h : Option Rect) (s : State) :
    answer (.moved x y v h) s
      = .next (s.respond ((if v.isSome then 0x00010000 else 0) ||| (if h.isSome then 0x00020000 else 0))
          ([x, y] ++ stripWords v ++ stripWords h)) := by
  have hstatus : statusWord 0 false v.isSome h.isSome
      = (if v.isSome then 0x00010000 else 0) ||| (if h.isSome then 0x00020000 else 0) := by
    cases v.isSome <;> cases h.isSome <;> rfl
  simp only [answer_eq, State.answered, State.respond, Answer.moved_response, Answer.mark_moved, hstatus]

theorem commitTick_of_fits {e : EngineId} {px py : Int} {k : Tick} {s : State} (hk : k.fits = true) :
    commitTick e px py k s
      = .next ((s.setEngine e ((s.engine e).ticked px py k)).respond
          ((if k.vertical.isSome then 0x00010000 else 0) ||| (if k.horizontal.isSome then 0x00020000 else 0))
          ([word k.posX, word k.posY] ++ stripWords (k.vertical.map Strip.toRect)
            ++ stripWords (k.horizontal.map Strip.toRect))) := by
  simp only [commitTick, hk, Bool.not_true, Bool.false_eq_true, if_false, answer_moved_eq_respond, Option.isSome_map]

section
variable (m : Engine) (c : Config) (stopX stopY : Bool) (wx wy : Word) (hd vd : Dir)

/-- What a tick stores and returns fits its words unless a coordinate, a strip's corner or a height does not. -/
theorem Engine.tick_fits_iff :
    let k := m.tick c stopX stopY (s32 wx) (s32 wy) hd vd
    k.fits = true ↔ inS32 k.posX ∧ inS32 k.posY
      ∧ (k.posX ≠ s32 wx →
          inS32 (verticalStrip k.dirH (s32 wx) (s32 wy) (u32 m.stepX) (u32 m.sprW) (u32 m.sprH)).x)
      ∧ (k.posY ≠ s32 wy →
          inS32 (horizontalStrip k.dirV (s32 wx) (s32 wy) (u32 m.stepY) (u32 m.sprW) (u32 m.sprH)).y
            ∧ u32 m.stepY + 1 < 2 ^ 32) := by
  simp only [Tick.fits, Engine.tick, Bool.and_eq_true, fitsS32_iff, stripFits_ite, verticalStrip_fits_iff,
    horizontalStrip_fits_iff, and_assoc]

end

section
variable {e : EngineId} {s : State} {wx wy : Word} {hd vd : Dir} (hr : (s.engine e).notReady = none)
  (hpx : (s.engine e).posX = some wx) (hpy : (s.engine e).posY = some wy)
  (hhd : (s.engine e).dirH = some hd) (hvd : (s.engine e).dirV = some vd)
include hr hpx hpy hhd hvd

/-- ADVANCE of a placed engine computes one tick and commits it; it stops an axis at its target where `S` = 1. -/
theorem exec_advance_of_ready {stop : Bool} {ux uy : Word}
    (htgt : stop = true → (s.engine e).tgtX = some ux ∧ (s.engine e).tgtY = some uy) :
    exec (.advance e stop) s = commitTick e (s32 wx) (s32 wy)
      ((s.engine e).tick s.cfg (decide (stop = true ∧ wx = ux)) (decide (stop = true ∧ wy = uy))
        (s32 wx) (s32 wy) hd vd) s := by
  cases stop with
  | false => simp [exec, execAdvance, hr, hpx, hpy, hhd, hvd]
  | true =>
    obtain ⟨htx, hty⟩ := htgt rfl
    simp [exec, execAdvance, hr, hpx, hpy, hhd, hvd, htx, hty, s32_inj]

end

/-- Settles O43: ADVANCE is the commit of its tick, whose directions, coordinates and strips are the
statement's. -/
theorem advanceRunsOneTick : Obligations.AdvanceRunsOneTick := by
  unfold Obligations.AdvanceRunsOneTick
  intro e stop s wx wy ux uy hd vd m
  refine ⟨by cases e <;> cases stop <;> rfl, refusesUnlessPlaced_of_placementEngineOf rfl s, ?_⟩
  intro hlow hc hp hpx hpy hhd hvd htgt px py sx sy sw sh hd' vd' px' py' vx hy _
  have hexec := exec_advance_of_ready (Engine.notReady_of_placed hc hp) hpx hpy hhd hvd htgt
  have hfits := m.tick_fits_iff s.cfg (decide (stop = true ∧ wx = ux)) (decide (stop = true ∧ wy = uy)) wx wy hd vd
  have htick :
      m.tick s.cfg (decide (stop = true ∧ wx = ux)) (decide (stop = true ∧ wy = uy)) (s32 wx) (s32 wy) hd vd
        = { posX := px', posY := py', dirH := hd', dirV := vd'
            vertical := if px' ≠ px then
              some (verticalStrip hd' (s32 wx) (s32 wy) (u32 m.stepX) (u32 m.sprW) (u32 m.sprH)) else none
            horizontal := if py' ≠ py then
              some (horizontalStrip vd' (s32 wx) (s32 wy) (u32 m.stepY) (u32 m.sprW) (u32 m.sprH)) else none } := by
    simp only [Engine.tick, tickDir_of_atOrBelow hlow, tickPos_eq]
    rfl
  rw [htick] at hexec
  simp only [htick] at hfits
  split
  next hok =>
    rw [commitTick_of_fits (hfits.2 hok)] at hexec
    simp only [Option.isSome_ite, stripWords_ite, verticalStrip_words, horizontalStrip_words, Engine.ticked,
      word_s32] at hexec
    exact hexec
  next hno => exact hexec.trans (commitTick_of_not_fits (mt hfits.1 hno))

end Sys2Proof.Machine
end

section
/-! The two axes of ADVANCE do not read each other (41_motion.md rule R180). -/

namespace Sys2Proof.Machine

/-- What an ADVANCE that is not refused does on one axis: the new coordinate and direction, from the registers
that the axis reads. With `S` = 0 the target is not among them. -/
def AxisTicked (c : Config) (stop : Bool) (pos tgt : Option Word) (dir : Option Dir) (step sprite display : Word)
    (pos' : Option Word) (dir' : Option Dir) : Prop :=
  ∃ w d, pos = some w ∧ dir = some d
    ∧ let d' := tickDir c (stop && decide (pos = tgt)) d (s32 w) (u32 step) (u32 sprite) (u32 display)
      pos' = some (word (tickPos d' (s32 w) (u32 step))) ∧ dir' = some d'

theorem tickDir_congr {c c' : Config} (h : c.lowEdgeCmp = c'.lowEdgeCmp) : tickDir c = tickDir c' := by
  funext stopped d pos step sprite display
  simp only [tickDir, Config.atLowEdge_congr h]

/-- The new coordinate and direction are a function of what the axis reads. -/
theorem AxisTicked.eq_of_eq {c c' : Config} {stop : Bool} {pos tgt tgt' posA posB : Option Word}
    {dir dirA dirB : Option Dir} {step sprite display : Word} (hlow : c.lowEdgeCmp = c'.lowEdgeCmp)
    (htgt : stop = true → tgt = tgt') (hA : AxisTicked c stop pos tgt dir step sprite display posA dirA)
    (hB : AxisTicked c' stop pos tgt' dir step sprite display posB dirB) : posA = posB ∧ dirA = dirB := by
  obtain ⟨w, d, rfl, rfl, rfl, rfl⟩ := hA
  obtain ⟨w', d', ⟨⟩, ⟨⟩, rfl, rfl⟩ := hB
  have hstop : (stop && decide (some w = tgt)) = (stop && decide (some w = tgt')) := by
    cases stop with
    | false => rfl
    | true => rw [htgt rfl]
  rw [hstop, tickDir_congr hlow]
  exact ⟨rfl, rfl⟩

/-- A command with a code other than 3 has its effect. -/
theorem effect_of_code_ne_three {i : Instr} {s t : State} (h : exec i s = .next t)
    (hcode : ∀ r, t.response = some r → r.code ≠ 3) : effect s t i := by
  obtain ⟨r, rfl⟩ | he := exec_cases h
  · exact absurd rfl (hcode _ rfl)
  · exact he

/-- ADVANCE, once it has its effect, ticks each axis by itself. -/
theorem axisTicked_of_effect {e : EngineId} {stop : Bool} {s t : State} (h : effect s t (.advance e stop)) :
    AxisTicked s.cfg stop (s.engine e).posX (s.engine e).tgtX (s.engine e).dirH (s.engine e).stepX
        (s.engine e).sprW (s.engine e).dspW (t.engine e).posX (t.engine e).dirH
      ∧ AxisTicked s.cfg stop (s.engine e).posY (s.engine e).tgtY (s.engine e).dirV (s.engine e).stepY
        (s.engine e).sprH (s.engine e).dspH (t.engine e).posY (t.engine e).dirV := by
  obtain ⟨-, px, py, hd, vd, stopX, stopY, hpos, hdir, hoff, hon, -, rfl⟩ := h
  obtain ⟨wx, wy, hpx, hpy, ⟨⟩⟩ := readPoint_eq_some hpos
  obtain ⟨hd, vd, hhd, hvd, ⟨⟩⟩ := readDirs_eq_some hdir
  have hstop : stopX = (stop && decide ((s.engine e).posX = (s.engine e).tgtX))
      ∧ stopY = (stop && decide ((s.engine e).posY = (s.engine e).tgtY)) := by
    cases stop with
    | false => exact hoff rfl
    | true =>
      obtain ⟨tx, ty, htgt, rfl, rfl⟩ := hon rfl
      obtain ⟨ux, uy, htx, hty, ⟨⟩⟩ := readPoint_eq_some htgt
      simp [hpx, hpy, htx, hty, s32_inj]
  obtain ⟨rfl, rfl⟩ := hstop
  simp only [State.answered_engine, State.setEngine_engine_same]
  exact ⟨⟨wx, hd, hpx, hhd, rfl, rfl⟩, wy, vd, hpy, hvd, rfl, rfl⟩

/-- Settles O48: both engines tick the axis, from the same registers. -/
theorem advanceAxesAreIndependent : Obligations.AdvanceAxesAreIndependent := by
  unfold Obligations.AdvanceAxesAreIndependent
  intro e stop s t s' t' m k hlow hs ht hcodeS hcodeT
  obtain ⟨hsX, hsY⟩ := axisTicked_of_effect (effect_of_code_ne_three hs fun r hr => by simp [hcodeS r hr])
  obtain ⟨htX, htY⟩ := axisTicked_of_effect (effect_of_code_ne_three ht fun r hr => by simp [hcodeT r hr])
  refine ⟨fun hpos htgt hdir hstep hspr hdsp => ?_, fun hpos htgt hdir hstep hspr hdsp => ?_⟩
  · rw [← hpos, ← hdir, ← hstep, ← hspr, ← hdsp] at htX
    exact hsX.eq_of_eq hlow htgt htX
  · rw [← hpos, ← hdir, ← hstep, ← hspr, ← hdsp] at htY
    exact hsY.eq_of_eq hlow htgt htY

end Sys2Proof.Machine
end

section
/-! The register file (10_state.md rule R40): what a read returns after a write to the same and to another
register, and what a write leaves unchanged. -/

namespace Sys2Proof.Machine

theorem Reg.ofNumber_eq_none {n : BitVec 8} (h : ∀ r : Reg, r.number ≠ n) : Reg.ofNumber n = none :=
  List.find?_eq_none.2 fun r _ => by simpa using h r

/-! ### Reading -/

/-- A read looks at the decoder's registers and at those of the engine addressed only. -/
theorem State.readReg_congr {s t : State} {e : EngineId} (hdec : t.dec = s.dec) (hme : t.engine e = s.engine e)
    (r : Reg) : t.readReg e r = s.readReg e r := by
  cases r <;> simp only [State.readReg, hdec, hme]

@[simp] theorem State.answered_readReg (s : State) (a : Answer) (e : EngineId) (r : Reg) :
    (s.answered a).readReg e r = s.readReg e r :=
  State.readReg_congr rfl (by simp) r

@[simp] theorem State.setPal_readReg (s : State) (m : Memory 16) (e : EngineId) (r : Reg) :
    (s.setPal m).readReg e r = s.readReg e r :=
  State.readReg_congr rfl (by simp) r

@[simp] theorem State.setPk_readReg (s : State) (m : Memory 8) (e : EngineId) (r : Reg) :
    (s.setPk m).readReg e r = s.readReg e r :=
  State.readReg_congr rfl (by simp) r

theorem State.readReg_dirH (s : State) (e : EngineId) :
    s.readReg e .dirH = (s.engine e).dirH.map Dir.toWord := rfl

theorem State.readReg_dirV (s : State) (e : EngineId) :
    s.readReg e .dirV = (s.engine e).dirV.map Dir.toWord := rfl

theorem Decoder.statusWord_lt (d : Decoder) : d.statusWord.toNat < 2 := by
  unfold Decoder.statusWord
  cases d.bufValid <;> decide

theorem Engine.statusWord_lt (m : Engine) : m.statusWord.toNat < 8 := by
  unfold Engine.statusWord
  generalize m.configured = c, m.posValid = p, m.prevValid = q
  revert c p q
  decide

/-! ### Writing -/

section
variable (s : State) (e : EngineId) (r : Reg) (v : Word)

@[simp] theorem State.writeReg_frame :
    (s.writeReg e r v).cfg = s.cfg ∧ (s.writeReg e r v).pk = s.pk ∧ (s.writeReg e r v).pal = s.pal
      ∧ (s.writeReg e r v).px = s.px ∧ (s.writeReg e r v).response = s.response
      ∧ (s.writeReg e r v).runRefused = s.runRefused ∧ (s.writeReg e r v).freeDraws = s.freeDraws := by
  obtain ⟨d, h⟩ | ⟨m, h⟩ := s.writeReg_cases e r v <;> simp [h]

theorem State.writeReg_engine_of_ne {f : EngineId} (hf : f ≠ e) :
    (s.writeReg e r v).engine f = s.engine f := by
  obtain ⟨d, h⟩ | ⟨m, h⟩ := s.writeReg_cases e r v
  · simp [h]
  · rw [h, State.setEngine_engine_other s m hf]

variable {r}

theorem State.writeReg_dec_of_engineRegister (hr : isDecoderNumber r.number = false) :
    (s.writeReg e r v).dec = s.dec := by
  cases r with
  | width | height | bpp | palLen | pkLen => exact absurd hr (by decide)
  | decStatus | decErr | errByte | errPix | bufLen => exact absurd hr (by decide)
  | sprW | sprH | dspW | dspH | stepX | stepY | jitTol => exact State.setEngine_dec ..
  | posX | posY | tgtX | tgtY | dirH | dirV | prevX | prevY | meStatus | meErr => rfl

/-- A decoder register belongs to no engine. -/
theorem State.writeReg_of_decoderRegister (hr : isDecoderNumber r.number = true) (f : EngineId) :
    s.writeReg e r v = s.writeReg f r v := by
  cases r with
  | width | height | bpp | palLen | pkLen => rfl
  | decStatus | decErr | errByte | errPix | bufLen => rfl
  | sprW | sprH | dspW | dspH | stepX | stepY | jitTol => exact absurd hr (by decide)
  | posX | posY | tgtX | tgtY | dirH | dirV | prevX | prevY | meStatus | meErr => rfl

theorem State.readReg_writeReg_same (hr : r.access ≠ .readOnly) : (s.writeReg e r v).readReg e r = some v := by
  cases r with
  | width | height | bpp | palLen | pkLen => rfl
  | sprW | sprH | dspW | dspH | stepX | stepY | jitTol => simp [State.writeReg, State.readReg]
  | decStatus | decErr | errByte | errPix | bufLen => exact absurd rfl hr
  | posX | posY | tgtX | tgtY | dirH | dirV | prevX | prevY | meStatus | meErr => exact absurd rfl hr

/-- A status register is made of flags, which no WRREG writes, so the other fields do not show in it. -/
theorem State.readReg_writeReg_of_ne {q : Reg} (hq : q ≠ r) :
    (s.writeReg e r v).readReg e q = s.readReg e q := by
  cases r with
  | width | height | bpp | palLen | pkLen =>
    cases q <;> simp_all [State.writeReg, State.readReg, Decoder.statusWord]
  | sprW | sprH | dspW | dspH | stepX | stepY | jitTol =>
    cases q <;> simp_all [State.writeReg, State.readReg, Engine.statusWord]
  | decStatus | decErr | errByte | errPix | bufLen => rfl
  | posX | posY | tgtX | tgtY | dirH | dirV | prevX | prevY | meStatus | meErr => rfl

theorem State.readReg_writeReg_other {f : EngineId} {q : Reg} (h : ¬ sameRegister e r f q) :
    (s.writeReg e r v).readReg f q = s.readReg f q := by
  by_cases hf : f = e
  · subst hf
    exact s.readReg_writeReg_of_ne f v fun hq => h ⟨hq, .inr rfl⟩
  · cases hr : isDecoderNumber r.number with
    | true =>
      rw [s.writeReg_of_decoderRegister e v hr f]
      exact s.readReg_writeReg_of_ne f v fun hq => h ⟨hq, .inl hr⟩
    | false =>
      exact State.readReg_congr (s.writeReg_dec_of_engineRegister e v hr) (s.writeReg_engine_of_ne e r v hf) q

end

end Sys2Proof.Machine
end

section
/-! The access commands (42_access.md rules R202 to R206): the packet of each, and what it ends in, one lemma per
branch of its rule. -/

namespace Sys2Proof.Machine

/-- The header of WRREG and RDREG: `OPC`, `ENG` and `REG`, with `S` = 0 (30_encoding.md rule R91). -/
theorem headerWord_of_stop_false (opc : BitVec 8) (e : EngineId) (reg : BitVec 8) :
    headerWord opc e reg false = opc.setWidth 32 <<< 24 ||| engBits e ||| reg.setWidth 32 <<< 8 :=
  BitVec.or_zero

/-! ### WRREG -/

section
variable {e : EngineId} {r : Reg} {v : Word} {s : State}

theorem exec_wrreg_of_unknown {n : BitVec 8} (hw : (Instr.wrreg e n v).wf = true) (hn : ∀ r : Reg, r.number ≠ n) :
    exec (.wrreg e n v) s = .next (s.refusedFor .noSuchRegister) := by
  simp [exec, execWrreg, hw, Reg.ofNumber_eq_none hn, refuse_eq_refusedFor]

variable (hw : (Instr.wrreg e r.number v).wf = true)
include hw

theorem exec_wrreg_of_readOnly (hr : r.access = .readOnly) :
    exec (.wrreg e r.number v) s = .next (s.refusedFor .readOnly) := by
  simp [exec, execWrreg, hw, Reg.ofNumber_number, hr, refuse_eq_refusedFor]

theorem exec_wrreg_of_locked (hr : r.access = .untilConstruct) (hc : (s.engine e).configured = true) :
    exec (.wrreg e r.number v) s = .next (s.refusedFor .locked) := by
  simp [exec, execWrreg, hw, Reg.ofNumber_number, hr, hc, refuse_eq_refusedFor]

theorem exec_wrreg_of_writable (hr : r.access ≠ .readOnly)
    (hlock : ¬ (r.access = .untilConstruct ∧ (s.engine e).configured = true)) :
    exec (.wrreg e r.number v) s = .next ((s.writeReg e r v).answered (.ok [])) := by
  cases ha : r.access with
  | readOnly => exact absurd ha hr
  | untilConstruct =>
    have hc : (s.engine e).configured = false := by simpa [ha] using hlock
    simp [exec, execWrreg, hw, Reg.ofNumber_number, ha, hc, answer_eq]
  | readWrite => simp [exec, execWrreg, hw, Reg.ofNumber_number, ha, answer_eq]

end

/-- Settles O16: the branches of WRREG are those of the statement, and the register file keeps every other
register. -/
theorem wrregStoresTheValue : Obligations.WrregStoresTheValue := by
  unfold Obligations.WrregStoresTheValue
  intro e n v s hw
  refine ⟨by rw [encode, headerWord_of_stop_false]; rfl, exec_wrreg_of_unknown hw, ?_⟩
  rintro r rfl
  split_ifs with hro hlock
  · exact exec_wrreg_of_readOnly hw hro
  · exact exec_wrreg_of_locked hw hlock.1 hlock.2
  · refine ⟨_, exec_wrreg_of_writable hw hro hlock, ?_, fun f q hne => ?_, ?_⟩
    · rw [State.answered_readReg, State.readReg_writeReg_same s e v hro]
    · rw [State.answered_readReg, State.readReg_writeReg_other s e v hne]
    · simp

/-! ### RDREG -/

section
variable {e : EngineId} {r : Reg} {s : State}

theorem exec_rdreg_of_unknown {n : BitVec 8} (hw : (Instr.rdreg e n).wf = true) (hn : ∀ r : Reg, r.number ≠ n) :
    exec (.rdreg e n) s = .next (s.refusedFor .noSuchRegister) := by
  simp [exec, execRdreg, hw, Reg.ofNumber_eq_none hn, refuse_eq_refusedFor]

variable (hw : (Instr.rdreg e r.number).wf = true)
include hw

theorem exec_rdreg_of_none (hr : s.readReg e r = none) :
    exec (.rdreg e r.number) s = .next (s.refusedFor .unwritten) := by
  simp [exec, execRdreg, hw, Reg.ofNumber_number, hr, refuse_eq_refusedFor]

theorem exec_rdreg_of_some {v : Word} (hr : s.readReg e r = some v) :
    exec (.rdreg e r.number) s = .next (s.okWith [v]) := by
  simp [exec, execRdreg, hw, Reg.ofNumber_number, hr, answer_ok_eq_okWith]

end

/-- Settles O17: the branches of RDREG are those of the statement; the words of directions and status registers
are small tables. -/
theorem rdregReturnsTheRegister : Obligations.RdregReturnsTheRegister := by
  unfold Obligations.RdregReturnsTheRegister
  intro e n s hw
  refine ⟨by rw [encode, headerWord_of_stop_false]; rfl, fun d hd => ?_, fun d hd => ?_, ?_, ?_,
    exec_rdreg_of_unknown hw, ?_⟩
  · rw [State.readReg_dirH, hd]
    cases d <;> rfl
  · rw [State.readReg_dirV, hd]
    cases d <;> rfl
  · rintro w ⟨⟩
    exact s.dec.statusWord_lt
  · rintro w ⟨⟩
    exact (s.engine e).statusWord_lt
  · rintro r rfl
    exact ⟨exec_rdreg_of_none hw, fun v => exec_rdreg_of_some hw⟩

/-! ### WRPAL, WRPK and RDPX -/

section
variable {a : Word} {s : State}

theorem exec_wrpal_of_ge (v : Colour) (ha : 256 ≤ a.toNat) :
    exec (.wrpal a v) s = .next (s.refusedFor .address) := by
  simp [exec, execWrpal, palDepth, ha, refuse_eq_refusedFor]

theorem exec_wrpal_of_lt (v : Colour) (ha : a.toNat < 256) :
    exec (.wrpal a v) s = .next ((s.setPal (s.pal.write a.toNat v)).okWith []) := by
  simp [exec, execWrpal, palDepth, Nat.not_le.2 ha, answer_ok_eq_okWith]

theorem exec_wrpk_of_ge (v : Byte) (ha : s.cfg.pkCap ≤ a.toNat) :
    exec (.wrpk a v) s = .next (s.refusedFor .address) := by
  simp [exec, execWrpk, ha, refuse_eq_refusedFor]

theorem exec_wrpk_of_lt (v : Byte) (ha : a.toNat < s.cfg.pkCap) :
    exec (.wrpk a v) s = .next ((s.setPk (s.pk.write a.toNat v)).okWith []) := by
  simp [exec, execWrpk, Nat.not_le.2 ha, answer_ok_eq_okWith]

theorem exec_rdpx_of_noBuffer (hv : s.dec.bufValid = false) :
    exec (.rdpx a) s = .next (s.refusedFor .noBuffer) := by
  simp [exec, execRdpx, hv, refuse_eq_refusedFor]

theorem exec_rdpx_of_ge (hv : s.dec.bufValid = true) (ha : s.dec.bufLen.toNat ≤ a.toNat) :
    exec (.rdpx a) s = .next (s.refusedFor .address) := by
  simp [exec, execRdpx, hv, ha, refuse_eq_refusedFor]

theorem exec_rdpx_of_lt {b : Byte} (hv : s.dec.bufValid = true) (ha : a.toNat < s.dec.bufLen.toNat)
    (hb : s.px.read a.toNat = some b) : exec (.rdpx a) s = .next (s.okWith [b.setWidth 32]) := by
  simp [exec, execRdpx, hv, Nat.not_le.2 ha, hb, answer_ok_eq_okWith]

end

/-- Settles O19: a write to `PAL` reads back at its index and nowhere else. -/
theorem wrpalLoadsOneEntry : Obligations.WrpalLoadsOneEntry := by
  unfold Obligations.WrpalLoadsOneEntry
  intro i v s
  exact ⟨rfl, exec_wrpal_of_ge v, fun hi => ⟨_, exec_wrpal_of_lt v hi, Memory.read_write_same _ _ _,
    fun _ ha => Memory.read_write_other _ _ ha⟩⟩

/-- Settles O20: a write to `PK` reads back at its address and nowhere else. -/
theorem wrpkLoadsOneByte : Obligations.WrpkLoadsOneByte := by
  unfold Obligations.WrpkLoadsOneByte
  intro a v s
  exact ⟨rfl, exec_wrpk_of_ge v, fun ha => ⟨_, exec_wrpk_of_lt v ha, Memory.read_write_same _ _ _,
    fun _ hb => Memory.read_write_other _ _ hb⟩⟩

/-- Settles O21: the branches of RDPX are those of the statement. -/
theorem rdpxReturnsOneByte : Obligations.RdpxReturnsOneByte := by
  unfold Obligations.RdpxReturnsOneByte
  intro a s
  exact ⟨rfl, exec_rdpx_of_noBuffer, exec_rdpx_of_ge, fun b => exec_rdpx_of_lt⟩

end Sys2Proof.Machine
end

section
/-! Frame of the access commands (42_access.md rule R200): each writes at most one register or one cell. -/

namespace Sys2Proof.Machine

/-- What an access command may leave behind, before its response: nothing new, the register that WRREG
addresses, the entry of `PAL` that WRPAL indexes, or the byte of `PK` that WRPK addresses. -/
inductive AccessWrite (s : State) : Instr → State → Prop where
  | nothing (i : Instr) : AccessWrite s i s
  | register (e : EngineId) (r : Reg) (v : Word) : AccessWrite s (.wrreg e r.number v) (s.writeReg e r v)
  | entry (w : Word) (v : Colour) : AccessWrite s (.wrpal w v) (s.setPal (s.pal.write w.toNat v))
  | byte (w : Word) (v : Byte) : AccessWrite s (.wrpk w v) (s.setPk (s.pk.write w.toNat v))

theorem exec_access_cases {i : Instr} {s t : State} (hm : motionEngineOf i = none) (hd : i ≠ .decode)
    (h : exec i s = .next t) :
    ∃ a u, t = u.answered a ∧ (a.response.code = 0 ∨ a.response.code = 3) ∧ AccessWrite s i u := by
  obtain ⟨r, rfl⟩ | he := exec_cases h
  · exact ⟨_, s, rfl, .inr rfl, .nothing i⟩
  cases i with
  | wrreg e n v =>
    obtain ⟨-, r, hr, -, -, rfl⟩ := he
    obtain rfl := Reg.number_of_ofNumber hr
    exact ⟨_, _, rfl, .inl rfl, .register e r v⟩
  | rdreg => obtain ⟨r, v, -, -, rfl⟩ := he; exact ⟨_, _, rfl, .inl rfl, .nothing _⟩
  | wrpal w v => obtain ⟨-, rfl⟩ := he; exact ⟨_, _, rfl, .inl rfl, .entry w v⟩
  | wrpk w v => obtain ⟨-, rfl⟩ := he; exact ⟨_, _, rfl, .inl rfl, .byte w v⟩
  | rdpx => obtain ⟨-, -, b, -, rfl⟩ := he; exact ⟨_, _, rfl, .inl rfl, .nothing _⟩
  | decode => exact absurd rfl hd
  | construct | recenter | setdir | settgt | settgta | attgt | advance => cases hm

/-- The decoder's result registers are the same. -/
def Decoder.SameResults (k d : Decoder) : Prop :=
  k.bufValid = d.bufValid ∧ k.bufLen = d.bufLen ∧ k.err = d.err ∧ k.errByte = d.errByte ∧ k.errPix = d.errPix

/-- The engine's flags, error code, position, target, directions and previous position are the same. -/
def Engine.SameMotion (k m : Engine) : Prop :=
  k.configured = m.configured ∧ k.posValid = m.posValid ∧ k.prevValid = m.prevValid ∧ k.err = m.err
    ∧ k.posX = m.posX ∧ k.posY = m.posY ∧ k.tgtX = m.tgtX ∧ k.tgtY = m.tgtY ∧ k.dirH = m.dirH
    ∧ k.dirV = m.dirV ∧ k.prevX = m.prevX ∧ k.prevY = m.prevY

theorem Decoder.SameResults.refl (d : Decoder) : d.SameResults d := ⟨rfl, rfl, rfl, rfl, rfl⟩

theorem Engine.SameMotion.refl (m : Engine) : m.SameMotion m :=
  ⟨rfl, rfl, rfl, rfl, rfl, rfl, rfl, rfl, rfl, rfl, rfl, rfl⟩

theorem State.writeReg_sameResults (s : State) (e : EngineId) (r : Reg) (v : Word) :
    (s.writeReg e r v).dec.SameResults s.dec := by
  cases r with
  | width | height | bpp | palLen | pkLen => exact ⟨rfl, rfl, rfl, rfl, rfl⟩
  | sprW | sprH | dspW | dspH | stepX | stepY | jitTol =>
    rw [s.writeReg_dec_of_engineRegister e v (by decide)]
    exact .refl _
  | decStatus | decErr | errByte | errPix | bufLen => exact .refl _
  | posX | posY | tgtX | tgtY | dirH | dirV | prevX | prevY | meStatus | meErr => exact .refl _

theorem State.writeReg_sameMotion (s : State) (e : EngineId) (r : Reg) (v : Word) (f : EngineId) :
    ((s.writeReg e r v).engine f).SameMotion (s.engine f) := by
  by_cases hf : f = e
  · subst hf
    cases r with
    | sprW | sprH | dspW | dspH | stepX | stepY | jitTol => simp [State.writeReg, Engine.SameMotion]
    | width | height | bpp | palLen | pkLen => simp [State.writeReg, Engine.SameMotion.refl]
    | decStatus | decErr | errByte | errPix | bufLen => exact .refl _
    | posX | posY | tgtX | tgtY | dirH | dirV | prevX | prevY | meStatus | meErr => exact .refl _
  · rw [s.writeReg_engine_of_ne e r v hf]
    exact .refl _

/-! ### What each kind of write leaves unchanged -/

namespace AccessWrite

section
variable {i : Instr} {s u : State} (h : AccessWrite s i u)
include h

theorem sameResults : u.dec.SameResults s.dec := by
  cases h with
  | register e r v => exact s.writeReg_sameResults e r v
  | nothing | entry | byte => exact .refl _

theorem sameMotion (f : EngineId) : (u.engine f).SameMotion (s.engine f) := by
  cases h with
  | register e r v => exact s.writeReg_sameMotion e r v f
  | nothing | entry | byte => simp [Engine.SameMotion.refl]

theorem frame : u.px = s.px ∧ u.cfg = s.cfg ∧ u.port = s.port ∧ u.freeDraws = s.freeDraws := by
  cases h with
  | nothing | register | entry | byte => simp

theorem pk_read {a : Nat} (ha : ∀ (w : Word) (v : Byte), i = .wrpk w v → w.toNat ≠ a) :
    u.pk.read a = s.pk.read a := by
  cases h with
  | byte w v => exact Memory.read_write_other _ _ (ha w v rfl).symm
  | nothing | register | entry => simp

theorem pal_read {a : Nat} (ha : ∀ (w : Word) (v : Colour), i = .wrpal w v → w.toNat ≠ a) :
    u.pal.read a = s.pal.read a := by
  cases h with
  | entry w v => exact Memory.read_write_other _ _ (ha w v rfl).symm
  | nothing | register | byte => simp

theorem readReg {f : EngineId} {q : Reg}
    (hq : ∀ e n v, i = .wrreg e n v → q.number ≠ n ∨ (isDecoderNumber n = false ∧ f ≠ e)) :
    u.readReg f q = s.readReg f q := by
  cases h with
  | register e r v =>
    refine s.readReg_writeReg_other e v ?_
    rintro ⟨rfl, hdec⟩
    obtain hn | ⟨hme, hf⟩ := hq e _ v rfl
    · exact hn rfl
    · exact hdec.elim (by simp [hme]) hf
  | nothing | entry | byte => simp

theorem registers (hi : ∀ e n v, i ≠ .wrreg e n v) : u.dec = s.dec ∧ u.me0 = s.me0 ∧ u.me1 = s.me1 := by
  cases h with
  | register e r v => exact absurd rfl (hi e _ v)
  | nothing | entry | byte => exact ⟨rfl, rfl, rfl⟩

end

end AccessWrite

/-- Settles O23: each clause is what every kind of write leaves unchanged, and a response changes none of it. -/
theorem accessCommandsFrame : Obligations.AccessCommandsFrame := by
  unfold Obligations.AccessCommandsFrame
  intro i s t hm hd h
  obtain ⟨a, u, rfl, hcode, hw⟩ := exec_access_cases hm hd h
  obtain ⟨hpx, hcfg, hport, hdraws⟩ := hw.frame
  refine ⟨?_, hw.sameResults, fun e => ?_, fun _ => congrArg (Memory.read · _) hpx, fun _ => hw.pk_read,
    fun _ => hw.pal_read, fun f q hq => ?_, hw.registers, hcfg, hport, hdraws⟩
  · rintro r ⟨⟩
    exact hcode
  · rw [State.answered_engine]
    exact hw.sameMotion e
  · rw [State.answered_readReg]
    exact hw.readReg hq

end Sys2Proof.Machine
end

section
/-! The state after reset, and what a constructed engine keeps (70_reset_and_hazards.md rules R261, R262). -/

namespace Sys2Proof.Machine

/-! ### After reset -/

@[simp] theorem State.reset_engine (e : EngineId) : State.reset.engine e = Engine.reset := by
  cases e <;> rfl

/-- Settles O11: the decoder's registers and an engine's are literals of R261's table, an empty memory reads
`none` at every address, and both engines reset alike. -/
theorem resetStateIsTheSpecs : Obligations.ResetStateIsTheSpecs := by
  unfold Obligations.ResetStateIsTheSpecs
  refine ⟨by decide, by decide, by decide,
    fun a => ⟨Memory.read_nil a, Memory.read_nil a, Memory.read_nil a⟩, fun e => ?_⟩
  simp only [State.reset_engine]
  decide

/-! ### A constructed engine keeps its construction -/

/-- `CONFIGURED` and the four geometry registers are the same. -/
def Engine.SameConstruction (k m : Engine) : Prop :=
  k.configured = m.configured ∧ k.sprW = m.sprW ∧ k.sprH = m.sprH ∧ k.dspW = m.dspW ∧ k.dspH = m.dspH

theorem Engine.SameConstruction.refl (m : Engine) : m.SameConstruction m := ⟨rfl, rfl, rfl, rfl, rfl⟩

theorem State.setEngine_sameConstruction {s : State} {e f : EngineId} {k : Engine}
    (hk : k.SameConstruction (s.engine f)) :
    ((s.setEngine f k).engine e).SameConstruction (s.engine e) := by
  by_cases he : e = f
  · subst he
    rwa [State.setEngine_engine_same]
  · rw [State.setEngine_engine_other s k he]
    exact .refl _

/-- Only the registers that are writable until CONSTRUCT hold geometry (rule R41). -/
theorem State.writeReg_sameConstruction {s : State} {f : EngineId} {r : Reg} (hr : r.access ≠ .untilConstruct)
    (v : Word) (e : EngineId) : ((s.writeReg f r v).engine e).SameConstruction (s.engine e) := by
  cases r with
  | sprW | sprH | dspW | dspH => exact absurd rfl hr
  | stepX | stepY | jitTol => exact State.setEngine_sameConstruction ⟨rfl, rfl, rfl, rfl, rfl⟩
  | width | height | bpp | palLen | pkLen => simp [State.writeReg, Engine.SameConstruction.refl]
  | decStatus | decErr | errByte | errPix | bufLen => exact .refl _
  | posX | posY | tgtX | tgtY | dirH | dirV | prevX | prevY | meStatus | meErr => exact .refl _

/-- The two commands that could change the construction, WRREG of a geometry register and CONSTRUCT, need an
engine that is not constructed; every other effect keeps it on every engine. -/
theorem effect_sameConstruction {i : Instr} {s t : State} {e : EngineId} (h : effect s t i)
    (hc : (s.engine e).configured = true) : (t.engine e).SameConstruction (s.engine e) := by
  have ne_of_unconstructed {f : EngineId} (hf : (s.engine f).configured = false) : e ≠ f := by
    rintro rfl
    simp [hc] at hf
  cases i with
  | wrreg f n v =>
    obtain ⟨-, r, -, -, hlock, rfl⟩ := h
    rw [State.answered_engine]
    by_cases hr : r.access = .untilConstruct
    · rw [s.writeReg_engine_of_ne f r v (ne_of_unconstructed (hlock hr))]
      exact .refl _
    · exact State.writeReg_sameConstruction hr v e
  | construct f =>
    obtain ⟨hf, ⟨-, rfl⟩ | ⟨-, rfl⟩⟩ := h <;>
    · rw [State.answered_engine, State.setEngine_engine_other s _ (ne_of_unconstructed hf)]
      exact .refl _
  | rdreg => obtain ⟨r, v, -, -, rfl⟩ := h; simp [Engine.SameConstruction.refl]
  | wrpal | wrpk => obtain ⟨-, rfl⟩ := h; simp [Engine.SameConstruction.refl]
  | rdpx => obtain ⟨-, -, b, -, rfl⟩ := h; simp [Engine.SameConstruction.refl]
  | decode =>
    obtain ⟨-, rfl⟩ | ⟨-, -, ⟨b, p, -, rfl⟩ | ⟨out, -, rfl⟩⟩ := h <;> simp [Engine.SameConstruction.refl]
  | recenter =>
    obtain ⟨-, ⟨-, rfl⟩ | ⟨-, rfl⟩⟩ := h <;>
    · rw [State.answered_engine]
      exact State.setEngine_sameConstruction ⟨rfl, rfl, rfl, rfl, rfl⟩
  | setdir | settgt =>
    obtain ⟨-, rfl⟩ := h
    rw [State.answered_engine]
    exact State.setEngine_sameConstruction ⟨rfl, rfl, rfl, rfl, rfl⟩
  | settgta =>
    obtain ⟨-, px, py, tx, ty, -, -, -, -, ⟨-, -, rfl⟩ | ⟨-, rfl⟩⟩ := h <;> rw [State.answered_engine]
    · exact .refl _
    · exact State.setEngine_sameConstruction ⟨rfl, rfl, rfl, rfl, rfl⟩
  | attgt => obtain ⟨-, px, py, tx, ty, -, -, rfl⟩ := h; simp [Engine.SameConstruction.refl]
  | advance =>
    obtain ⟨-, px, py, hd, vd, stopX, stopY, -, -, -, -, -, rfl⟩ := h
    rw [State.answered_engine]
    exact State.setEngine_sameConstruction ⟨rfl, rfl, rfl, rfl, rfl⟩

theorem exec_sameConstruction {i : Instr} {s t : State} {e : EngineId} (h : exec i s = .next t)
    (hc : (s.engine e).configured = true) : (t.engine e).SameConstruction (s.engine e) := by
  obtain ⟨r, rfl⟩ | he := exec_cases h
  · rw [State.answered_engine]
    exact .refl _
  · exact effect_sameConstruction he hc

@[simp] theorem State.withPort_engine (s : State) (ps : List Packet) (e : EngineId) :
    ({ s with port := ps } : State).engine e = s.engine e := by
  cases e <;> rfl

theorem step_sameConstruction {s t : State} {e : EngineId} (h : step s = .next t)
    (hc : (s.engine e).configured = true) : (t.engine e).SameConstruction (s.engine e) := by
  obtain ⟨-, rfl⟩ | ⟨p, rest, -, ⟨d, -, rfl⟩ | ⟨i, -, hi⟩⟩ := step_cases h
  · exact .refl _
  · rw [State.answered_engine, State.withPort_engine]
    exact .refl _
  · have hkeep := exec_sameConstruction (e := e) hi (by rwa [State.withPort_engine])
    rwa [State.withPort_engine] at hkeep

/-- Settles O52: CONSTRUCT's first check refuses, and a step keeps the construction of a constructed engine. -/
theorem constructedGeometryNeverChanges : Obligations.ConstructedGeometryNeverChanges := by
  unfold Obligations.ConstructedGeometryNeverChanges
  intro s t e h hc
  obtain ⟨hconf, hgeometry⟩ := step_sameConstruction h hc
  exact ⟨exec_construct_of_configured hc, hconf.trans hc, hgeometry⟩

end Sys2Proof.Machine
end

section
/-! The encoder and the decoder are inverse to each other (30_encoding.md rules R91 to R95): a header is its fields,
and the rows of the opcode map differ in `OPC`. -/

namespace Sys2Proof

/-! ### Encoding, then decoding -/

theorem checkEngine_of_wf {i : Instr} (h : i.wf = true) : checkEngine i = .ok i := by
  simp only [checkEngine, h, if_true]

/-- An operand that was widened to a word is narrow enough, and reads back. -/
theorem narrowOperand_setWidth {width : Nat} (hw : width ≤ 32) (v : BitVec width) :
    narrowOperand width (v.setWidth 32) = .ok v := by
  have hv : (v.setWidth 32).toNat < 2 ^ width := by
    rw [BitVec.toNat_setWidth_of_le hw]
    exact v.isLt
  rw [narrowOperand, if_pos hv, BitVec.setWidth_setWidth_of_le _ hw, BitVec.setWidth_eq]

theorem decodePacket_encode_of_row {i : Instr} {r : OpRow} (hrow : findRow (encode i).header = some r)
    (hn : (encode i).operands.length = r.ops)
    (hread : readFields r.op (encode i).header (encode i).operands = .ok i) : decodePacket (encode i) = .ok i :=
  (decodePacket_of_row hrow hn).trans hread

/-- Settles O1: the header selects the command's own row, whose fields and operands read back. -/
theorem decodeOfEncodeIsTheCommand : Obligations.DecodeOfEncodeIsTheCommand := by
  unfold Obligations.DecodeOfEncodeIsTheCommand
  intro i hw
  cases i with
  | wrreg e n v =>
    exact decodePacket_encode_of_row (findRow_wrreg e n) rfl
      (by simpa [readFields, encode, operands1] using checkEngine_of_wf hw)
  | rdreg e n =>
    exact decodePacket_encode_of_row (findRow_rdreg e n) rfl
      (by simpa [readFields, encode, operands0] using checkEngine_of_wf hw)
  | wrpal a v =>
    exact decodePacket_encode_of_row findRow_wrpal rfl
      (by simp [readFields, encode, operands2, narrowOperand_setWidth, Except.map])
  | wrpk a v =>
    exact decodePacket_encode_of_row findRow_wrpk rfl
      (by simp [readFields, encode, operands2, narrowOperand_setWidth, Except.map])
  | rdpx a => exact decodePacket_encode_of_row findRow_rdpx rfl rfl
  | decode => exact decodePacket_encode_of_row findRow_decode rfl rfl
  | construct e =>
    exact decodePacket_encode_of_row (findRow_construct e) rfl (by simp [readFields, encode, operands0])
  | recenter e =>
    exact decodePacket_encode_of_row (findRow_recenter e) rfl (by simp [readFields, encode, operands0])
  | setdir e h v =>
    exact decodePacket_encode_of_row (findRow_setdir e) rfl (by simp [readFields, encode, operands2])
  | settgt e x y =>
    exact decodePacket_encode_of_row (findRow_settgt e) rfl (by simp [readFields, encode, operands2])
  | settgta e x y m =>
    exact decodePacket_encode_of_row (findRow_settgta e) rfl (by simp [readFields, encode, operands3])
  | attgt e => exact decodePacket_encode_of_row (findRow_attgt e) rfl (by simp [readFields, encode, operands0])
  | advance e stop =>
    exact decodePacket_encode_of_row (findRow_advance e stop) rfl (by simp [readFields, encode, operands0])

/-! ### Decoding, then encoding -/

theorem operands3_eq_ok {f : Word → Word → Word → Except DecodeError Instr} {ops : List Word} {i : Instr}
    (h : operands3 f ops = .ok i) : ∃ a b c, ops = [a, b, c] ∧ f a b c = .ok i := by
  unfold operands3 at h
  split at h
  · exact ⟨_, _, _, rfl, h⟩
  · cases h

theorem checkEngine_eq_ok_self {i j : Instr} (h : checkEngine i = .ok j) : j = i := by
  rw [checkEngine_of_wf (checkEngine_eq_ok h)] at h
  exact (Except.ok.inj h).symm

/-- A narrow operand's word is the operand widened. -/
theorem narrowOperand_map_eq_ok_setWidth {width : Nat} (hw : width ≤ 32) {v : Word} {f : BitVec width → Instr}
    {i : Instr} (h : (narrowOperand width v).map f = .ok i) : ∃ c, v = c.setWidth 32 ∧ i = f c := by
  have hv := narrowOperand_map_eq_ok h
  rw [narrowOperand, if_pos hv] at h
  refine ⟨v.setWidth width, BitVec.eq_of_toNat_eq ?_, (Except.ok.inj h).symm⟩
  rw [BitVec.toNat_setWidth_of_le hw, BitVec.toNat_setWidth, Nat.mod_eq_of_lt hv]

theorem getLsbD_eq_false_of_extractLsb'_eq_zero {h : Word} {start len : Nat} (hz : h.extractLsb' start len = 0)
    {i : Nat} (hlo : start ≤ i) (hhi : i < start + len) : h.getLsbD i = false := by
  have hi := congrArg (·.getLsbD (i - start)) hz
  simpa [Nat.add_sub_cancel' hlo, show i - start < len by omega] using hi

theorem getLsbD_engBit (h : Word) (i : Nat) : (engField h).bit.getLsbD i = (decide (i = 0) && h.getLsbD 16) := by
  simp only [engField]
  cases h.getLsbD 16 <;> cases i <;> simp [EngineId.bit]

/-- A header whose reserved bits are zero is made of its four fields. -/
theorem headerWord_fields {h : Word} (hhigh : h.extractLsb' 17 7 = 0) (hlow : h.extractLsb' 1 7 = 0) :
    headerWord (opcField h) (engField h) (regField h) (stopField h) = h := by
  refine BitVec.eq_of_getLsbD_eq fun i hi => ?_
  simp only [headerWord, opcField, regField, stopField, BitVec.getLsbD_or, BitVec.getLsbD_shiftLeft,
    BitVec.getLsbD_setWidth, BitVec.getLsbD_extractLsb', getLsbD_engBit, BitVec.getLsbD_ofBool, hi]
  rcases (by omega : i = 0 ∨ 1 ≤ i ∧ i < 8 ∨ 8 ≤ i ∧ i < 16 ∨ i = 16 ∨ 17 ≤ i ∧ i < 24 ∨ 24 ≤ i)
    with rfl | ⟨h1, h2⟩ | ⟨h1, h2⟩ | rfl | ⟨h1, h2⟩ | h1
  · simp
  · rw [getLsbD_eq_false_of_extractLsb'_eq_zero hlow (i := i) h1 h2]
    simp [Nat.ne_of_gt h1, h2, Nat.lt_trans h2]
  · grind
  · simp
  · rw [getLsbD_eq_false_of_extractLsb'_eq_zero hhigh (i := i) h1 h2]
    grind
  · grind

section
variable {p : Packet} {i : Instr} (h : decodePacket p = .ok i) {opc : BitVec 8} (hopc : opcField p.header = opc)
include h hopc

theorem headerWord_of_decodes :
    headerWord opc (engField p.header) (regField p.header) (stopField p.header) = p.header := by
  rw [← hopc, headerWord_fields (reservedHigh_eq_zero_of_decodes h) (reservedLow_eq_zero_of_decodes h)]

/-- WRREG and RDREG: `S` is zero. -/
theorem headerWord_of_decodes_register (hreg : opc = 0x01 ∨ opc = 0x02) :
    headerWord opc (engField p.header) (regField p.header) false = p.header := by
  have hs : stopField p.header = false := stopBit_eq_false_of_decodes h (by rcases hreg with rfl | rfl <;> simp [hopc])
  rw [← hs, headerWord_of_decodes h hopc]

/-- ADVANCE: `REG` is zero. -/
theorem headerWord_of_decodes_advance (hne : opc ≠ 0x01 ∧ opc ≠ 0x02) :
    headerWord opc (engField p.header) 0 (stopField p.header) = p.header := by
  have hz : regField p.header = 0 := regField_eq_zero_of_decodes h (hopc ▸ hne.1) (hopc ▸ hne.2)
  rw [← hz, headerWord_of_decodes h hopc]

/-- The other engine commands: `REG` and `S` are zero. -/
theorem headerWord_of_decodes_engine (hne : opc ≠ 0x01 ∧ opc ≠ 0x02 ∧ opc ≠ 0x26) :
    headerWord opc (engField p.header) 0 false = p.header := by
  obtain ⟨hw, hr, hadv⟩ := hne
  have hs : stopField p.header = false := stopBit_eq_false_of_decodes h (hopc ▸ hadv)
  rw [← hs, headerWord_of_decodes_advance h hopc ⟨hw, hr⟩]

/-- The commands of the decoder and its memories: `ENG`, `REG` and `S` are zero. -/
theorem headerWord_of_decodes_plain (hplain : opc ∈ [0x03#8, 0x04, 0x05, 0x10]) :
    headerWord opc .e0 0 false = p.header := by
  have he : engField p.header = .e0 := by simp only [engField, engBit_eq_false_of_decodes h (hopc ▸ hplain)]; rfl
  have hne : ∀ o ∈ [0x03#8, 0x04, 0x05, 0x10], o ≠ 0x01 ∧ o ≠ 0x02 ∧ o ≠ 0x26 := by decide
  rw [← he, headerWord_of_decodes_engine h hopc (hne opc hplain)]

end

/-- Settles O2: the row that selected the header fixes the opcode and the zero fields, so the fields read give the
header back, and the operands are those of the command. -/
theorem encodeOfDecodeIsThePacket : Obligations.EncodeOfDecodeIsThePacket := by
  unfold Obligations.EncodeOfDecodeIsThePacket
  intro p i h
  obtain ⟨r, hrow, -, hread⟩ := decodePacket_eq_ok h
  obtain ⟨hr, hs⟩ := findRow_eq_some hrow
  have hopc := opcField_of_selects hr hs
  have packet_ext {header : Word} {ops : List Word} (hh : header = p.header) (ho : p.operands = ops) :
      (⟨header, ops⟩ : Packet) = p := by rw [hh, ← ho]
  simp only [opcodeTable, List.mem_cons, List.not_mem_nil, or_false] at hr
  rcases hr with rfl | rfl | rfl | rfl | rfl | rfl | rfl | rfl | rfl | rfl | rfl | rfl | rfl
  · -- WRREG
    obtain ⟨v, hops, hc⟩ := operands1_eq_ok hread
    obtain rfl := checkEngine_eq_ok_self hc
    exact ⟨packet_ext (headerWord_of_decodes_register h hopc (by decide)) hops, checkEngine_eq_ok hc⟩
  · -- RDREG
    obtain ⟨hops, hc⟩ := operands0_eq_ok hread
    obtain rfl := checkEngine_eq_ok_self hc
    exact ⟨packet_ext (headerWord_of_decodes_register h hopc (by decide)) hops, checkEngine_eq_ok hc⟩
  · -- WRPAL
    obtain ⟨a, v, hops, hn⟩ := operands2_eq_ok hread
    obtain ⟨c, rfl, rfl⟩ := narrowOperand_map_eq_ok_setWidth (by decide) hn
    exact ⟨packet_ext (headerWord_of_decodes_plain h hopc (by decide)) hops, rfl⟩
  · -- WRPK
    obtain ⟨a, v, hops, hn⟩ := operands2_eq_ok hread
    obtain ⟨c, rfl, rfl⟩ := narrowOperand_map_eq_ok_setWidth (by decide) hn
    exact ⟨packet_ext (headerWord_of_decodes_plain h hopc (by decide)) hops, rfl⟩
  · -- RDPX
    obtain ⟨a, hops, ⟨⟩⟩ := operands1_eq_ok hread
    exact ⟨packet_ext (headerWord_of_decodes_plain h hopc (by decide)) hops, rfl⟩
  · -- DECODE
    obtain ⟨hops, ⟨⟩⟩ := operands0_eq_ok hread
    exact ⟨packet_ext (headerWord_of_decodes_plain h hopc (by decide)) hops, rfl⟩
  · -- CONSTRUCT
    obtain ⟨hops, ⟨⟩⟩ := operands0_eq_ok hread
    exact ⟨packet_ext (headerWord_of_decodes_engine h hopc (by decide)) hops, rfl⟩
  · -- RECENTER
    obtain ⟨hops, ⟨⟩⟩ := operands0_eq_ok hread
    exact ⟨packet_ext (headerWord_of_decodes_engine h hopc (by decide)) hops, rfl⟩
  · -- SETDIR
    obtain ⟨x, y, hops, ⟨⟩⟩ := operands2_eq_ok hread
    exact ⟨packet_ext (headerWord_of_decodes_engine h hopc (by decide)) hops, rfl⟩
  · -- SETTGT
    obtain ⟨x, y, hops, ⟨⟩⟩ := operands2_eq_ok hread
    exact ⟨packet_ext (headerWord_of_decodes_engine h hopc (by decide)) hops, rfl⟩
  · -- SETTGTA
    obtain ⟨x, y, m, hops, ⟨⟩⟩ := operands3_eq_ok hread
    exact ⟨packet_ext (headerWord_of_decodes_engine h hopc (by decide)) hops, rfl⟩
  · -- ATTGT
    obtain ⟨hops, ⟨⟩⟩ := operands0_eq_ok hread
    exact ⟨packet_ext (headerWord_of_decodes_engine h hopc (by decide)) hops, rfl⟩
  · -- ADVANCE
    obtain ⟨hops, ⟨⟩⟩ := operands0_eq_ok hread
    exact ⟨packet_ext (headerWord_of_decodes_advance h hopc (by decide)) hops, rfl⟩

/-- Settles O3: every row tests the whole of `OPC`, and no two rows have the same. -/
theorem atMostOneRowSelectsAHeader : Obligations.AtMostOneRowSelectsAHeader := by
  unfold Obligations.AtMostOneRowSelectsAHeader
  intro h r q hr hq hrs hqs
  have distinct : ∀ r ∈ opcodeTable, ∀ q ∈ opcodeTable, opcField r.pattern = opcField q.pattern → r = q := by
    decide
  exact distinct r hr q hq ((opcField_of_selects hr hrs).symm.trans (opcField_of_selects hq hqs))

/-! ### Examples -/

/-- Settles O4: each packet is the encoding of the command beside it. -/
theorem examplePacketsDecodeToTheirCommands : Obligations.ExamplePacketsDecodeToTheirCommands := by
  unfold Obligations.ExamplePacketsDecodeToTheirCommands
  have decodes {i : Instr} {p : Packet} (hw : i.wf = true) (hp : encode i = p) : decodePacket p = .ok i :=
    hp ▸ decodeOfEncodeIsTheCommand i hw
  and_intros <;> exact decodes rfl rfl

/-- Settles O5: WRREG and RDREG for every register number, the other headers as the few words they are. -/
theorem headerWordOfEveryCommand : Obligations.HeaderWordOfEveryCommand := by
  unfold Obligations.HeaderWordOfEveryCommand
  intro e n v w u c b stop eng reg
  have hengine (opc : BitVec 8) : headerWord opc e 0 false = opc.setWidth 32 <<< 24 ||| Machine.engBits e := by
    simp [Machine.headerWord_of_stop_false]
  have hadvance : headerWord 0x26 e 0 stop = 0x26000000 ||| Machine.engBits e ||| (BitVec.ofBool stop).setWidth 32 := by
    cases e <;> cases stop <;> decide
  exact ⟨Machine.headerWord_of_stop_false 0x01 e n, Machine.headerWord_of_stop_false 0x02 e n, rfl, rfl, rfl, rfl,
    hengine 0x20, hengine 0x21, hengine 0x22, hengine 0x23, hengine 0x24, hengine 0x25, hadvance⟩

end Sys2Proof
end

section
/-! What DECODE depends on and what it leaves behind (40_decoder.md rules R120 to R132): it finds a verdict from the
bitmap alone, and ends as the verdict says. -/

namespace Sys2Proof.Machine

/-! ### The verdict -/

/-- What DECODE finds before it changes anything: `none` for an inconsistent configuration (rule R121), otherwise
what the scan ends in, where a stream byte that is needed and unwritten counts as an unwritten cell (rule R129). -/
def State.verdict (s : State) : Option ScanResult :=
  if s.dec.inconsistent s.cfg = true then none
  else if s.pk.filled (streamNeed s.dec.width.toNat s.dec.height.toNat s.dec.bpp.toNat) = true then some (scan s)
  else some .unwritten

/-- The state in which DECODE ends on a verdict (rules R127 to R129). -/
def State.decodeEnd (s : State) : Option ScanResult → State
  | none => (s.setDec (s.dec.failed .configurationError 0 0)).answered .configurationError
  | some .unwritten => s.answered (.refused .unwritten)
  | some (.outOfRange b p) =>
    ((s.setDec (s.dec.failed .paletteIndexOutOfRange (BitVec.ofNat 32 b) (BitVec.ofNat 32 p))).loosePx).answered
      (.paletteIndexOutOfRange (BitVec.ofNat 32 b) (BitVec.ofNat 32 p))
  | some (.done out) => ((s.setDec (s.dec.succeeded out.length)).setPx (s.px.writeAll 0 out)).answered (.ok [])

theorem exec_decode_eq_decodeEnd (s : State) : exec .decode s = .next (s.decodeEnd s.verdict) := by
  simp only [exec, execDecode, State.verdict]
  split
  next => rfl
  next =>
    cases s.pk.filled (streamNeed s.dec.width.toNat s.dec.height.toNat s.dec.bpp.toNat) with
    | false => rfl
    | true => cases scan s <;> rfl

theorem State.verdict_eq_none {s : State} (hb : defaultBpp s.cfg) : s.verdict = none ↔ ¬ s.dec.consistent s.cfg := by
  rw [← Decoder.inconsistent_eq_false_iff hb, State.verdict]
  split_ifs <;> simp_all

theorem State.verdict_of_consistent {s : State} (hb : defaultBpp s.cfg) (hc : s.dec.consistent s.cfg) :
    s.verdict = if s.streamWritten then some (scan s) else some .unwritten := by
  simp only [State.verdict, (Decoder.inconsistent_eq_false_iff hb).2 hc, s.filled_iff_streamWritten]
  rfl

theorem State.scan_of_verdict_done {s : State} {out : List Byte} (h : s.verdict = some (.done out)) :
    scan s = .done out := by
  unfold State.verdict at h
  split_ifs at h <;> simp_all

theorem ScanResult.cons_eq_done {v : Colour} {r : ScanResult} {out : List Byte} (h : r.cons v = .done out) :
    ∃ rest, r = .done rest ∧ out = v.extractLsb' 0 8 :: v.extractLsb' 8 8 :: rest := by
  cases r with
  | done rest => exact ⟨rest, rfl, (ScanResult.done.inj h).symm⟩
  | outOfRange | unwritten => cases h

/-- A finished scan has put two bytes for each pixel (rule R126). -/
theorem scanPixels_done_length {pk : Memory 8} {pal : Memory 16} {bpp palLen left p : Nat} {c : Cursor}
    {out : List Byte} (h : scanPixels pk pal bpp palLen left p c = .done out) : out.length = 2 * left := by
  induction left generalizing p c out with
  | zero => cases h; rfl
  | succ left ih =>
    simp only [scanPixels] at h
    split at h
    · cases h
    split at h
    · cases h
    split at h
    · cases h
    · obtain ⟨rest, hrest, rfl⟩ := ScanResult.cons_eq_done h
      simp only [List.length_cons, ih hrest]
      omega

theorem scan_done_length {s : State} {out : List Byte} (h : scan s = .done out) : out.length = 2 * s.pixels :=
  scanPixels_done_length h

/-- Settles O24: the verdict is `none` exactly for an inconsistent configuration, and only then is the code 2. -/
theorem inconsistentBitmapIsAConfigurationError : Obligations.InconsistentBitmapIsAConfigurationError := by
  unfold Obligations.InconsistentBitmapIsAConfigurationError
  intro s hb
  rw [exec_decode_eq_decodeEnd]
  refine ⟨fun hc => ⟨s.px, ?_⟩, fun hc t r ht hr => ?_⟩
  · rw [(State.verdict_eq_none hb).2 hc]
    exact answer_configurationError_eq_configError _
  · cases ht
    cases hv : s.verdict with
    | none => exact absurd hc ((State.verdict_eq_none hb).1 hv)
    | some v => rw [hv] at hr; cases v <;> cases hr <;> simp [Response.code]

/-! ### The indices -/

theorem streamBit_le_one (pk : Memory 8) (g : Nat) : streamBit pk g ≤ 1 := by
  unfold streamBit
  split <;> omega

theorem streamChunk_lt (pk : Memory 8) (g n : Nat) : streamChunk pk g n < 2 ^ n := by
  induction n with
  | zero => simp
  | succ n ih =>
    have hbit := streamBit_le_one pk (g + n)
    rw [streamChunk_succ]
    omega

/-- Settles O25: the bytes of the chunk hold its bits, and a chunk of `b` bits is below `2 ^ b`. -/
theorem scanComputesTheColorIndex : Obligations.ScanComputesTheColorIndex := by
  unfold Obligations.ScanComputesTheColorIndex
  intro pk b p _ _ hw
  exact ⟨unpackChunk_cursorAt fun a hlo hhi => hw a hlo (by omega), streamChunk_lt pk (p * b) b⟩

/-- Settles O26: each index as the loop computes it, the last for every value of the byte it straddles into. -/
theorem straddlingIndicesOfTheExample : Obligations.StraddlingIndicesOfTheExample := by
  unfold Obligations.StraddlingIndicesOfTheExample
  decide

/-! ### Unwritten input -/

/-- A stretch of pixels that decode does not change how the scan fails after it. -/
theorem State.scanFrom_skip {s : State} (hw : s.streamWritten) {r : ScanResult} (hr : ∀ v, r.cons v = r)
    {left p n : Nat} (hp : p + n ≤ s.pixels) (hok : ∀ i, p ≤ i → i < p + n → s.pixelOk i)
    (h : s.scanFrom left (p + n) = r) :
    s.scanFrom (n + left) p = r := by
  induction n generalizing p with
  | zero => simpa using h
  | succ n ih =>
    obtain ⟨hin, hpal⟩ := hok p le_rfl (by omega)
    obtain ⟨v, hv⟩ := Option.isSome_iff_exists.1 hpal
    rw [Nat.add_right_comm, s.scanFrom_succ_of_ok hw _ (by omega) hin hv,
      ih (p := p + 1) (by omega) (fun i hlo hhi => hok i (by omega) (by omega)) (by rwa [Nat.add_right_comm]), hr]

/-- A pixel whose palette entry is unwritten ends the scan. -/
theorem State.scanFrom_succ_of_unwritten {s : State} (hw : s.streamWritten) (left : Nat) {p : Nat} (hp : p < s.pixels)
    (hidx : s.indexAt p < s.dec.palLen.toNat) (hv : s.pal.read (s.indexAt p) = none) :
    s.scanFrom (left + 1) p = .unwritten := by
  unfold State.indexAt at hidx hv
  simp only [State.scanFrom, scanPixels, unpackChunk_cursorAt (s.bitsWritten_of_streamWritten hw hp),
    if_neg (Nat.not_le.2 hidx), hv]

/-- Settles O29: either way the verdict is that a cell is unwritten. -/
theorem decodeRefusesUnwrittenInput : Obligations.DecodeRefusesUnwrittenInput := by
  unfold Obligations.DecodeRefusesUnwrittenInput
  intro s hb hc
  rw [exec_decode_eq_decodeEnd, State.verdict_of_consistent hb hc, ← State.answered_refused]
  refine ⟨fun hw => by rw [if_neg hw]; rfl, fun hw q hq hok hidx hv => ?_⟩
  obtain ⟨left, hleft⟩ : ∃ left, s.pixels = q + (left + 1) := ⟨s.pixels - q - 1, by omega⟩
  have hscan : scan s = .unwritten := by
    rw [scan_eq_scanFrom, hleft]
    refine s.scanFrom_skip hw (fun _ => rfl) (by omega) (fun p _ hp => hok p (by omega)) ?_
    rw [Nat.zero_add]
    exact s.scanFrom_succ_of_unwritten hw left hq hidx hv
  rw [if_pos hw, hscan]
  rfl

/-! ### Frame -/

/-- Settles O30: each end of DECODE writes the result registers and, on success, the bytes of the pixels. -/
theorem decodeFrame : Obligations.DecodeFrame := by
  unfold Obligations.DecodeFrame
  intro s t r ht hr
  rw [exec_decode_eq_decodeEnd] at ht
  cases ht
  cases hv : s.verdict with
  | none => rw [hv] at hr; cases hr; simp [State.decodeEnd, Decoder.failed, Response.code]
  | some v =>
    rw [hv] at hr
    cases v with
    | unwritten => simp [State.decodeEnd]
    | outOfRange b p => cases hr; simp [State.decodeEnd, Decoder.failed, Response.code]
    | done out =>
      have hlen := scan_done_length (State.scan_of_verdict_done hv)
      cases hr
      refine ⟨⟨rfl, rfl, rfl, rfl⟩, ⟨rfl, rfl, rfl, rfl, rfl⟩, fun _ => ⟨rfl, rfl⟩, fun _ a ha => ?_, nofun⟩
      exact (Memory.read_writeAll _ _ _ _).trans (if_neg (by omega))

/-! ### The bitmap alone -/

theorem Memory.filled_congr {w n : Nat} {m k : Memory w} (h : ∀ a, a < n → m.read a = k.read a) :
    m.filled n = k.filled n := by
  rw [Bool.eq_iff_iff]
  simp +contextual [Memory.filled, h]

section
variable {s t : State} (h : sameBitmap s t)
include h

theorem sameBitmap.pixels : s.pixels = t.pixels := by
  simp only [State.pixels, h.width, h.height]

theorem sameBitmap.inconsistent : s.dec.inconsistent s.cfg = t.dec.inconsistent t.cfg := by
  simp only [Decoder.inconsistent, h.cfg, h.width, h.height, h.bpp, h.palLen, h.pkLen]

theorem sameBitmap.indexAt {p : Nat} (hp : p < s.pixels) : s.indexAt p = t.indexAt p := by
  have hle : (p + 1) * s.dec.bpp.toNat ≤ s.pixels * s.dec.bpp.toNat := Nat.mul_le_mul_right _ hp
  rw [add_one_mul] at hle
  simp only [State.indexAt, colorIndex, streamBit, ← h.bpp]
  refine Finset.sum_congr rfl fun k hk => ?_
  rw [Finset.mem_range] at hk
  have hbyte : s.pk.read ((p * s.dec.bpp.toNat + k) / 8) = t.pk.read ((p * s.dec.bpp.toNat + k) / 8) := by
    refine h.stream _ ?_
    unfold streamNeed
    unfold State.pixels at hle
    omega
  rw [hbyte]

theorem sameBitmap.streamWritten (hw : s.streamWritten) : t.streamWritten := by
  intro a ha
  rw [← h.pixels, ← h.bpp] at ha
  rw [← h.stream a ha]
  exact hw a ha

theorem sameBitmap.scanFrom (hw : s.streamWritten) {left p : Nat} (hp : p + left ≤ s.pixels) :
    s.scanFrom left p = t.scanFrom left p := by
  induction left generalizing p with
  | zero => rfl
  | succ left ih =>
    have hps : p < s.pixels := by omega
    have hpt : p < t.pixels := h.pixels ▸ hps
    have hwt := h.streamWritten hw
    have hidx := h.indexAt hps
    by_cases hin : s.indexAt p < s.dec.palLen.toNat
    · have hint : t.indexAt p < t.dec.palLen.toNat := by rwa [← hidx, ← h.palLen]
      have hpal := h.palette _ hin
      cases hv : s.pal.read (s.indexAt p) with
      | none =>
        rw [s.scanFrom_succ_of_unwritten hw left hps hin hv,
          t.scanFrom_succ_of_unwritten hwt left hpt hint (by rw [← hidx, ← hpal, hv])]
      | some v =>
        rw [s.scanFrom_succ_of_ok hw left hps hin hv,
          t.scanFrom_succ_of_ok hwt left hpt hint (by rw [← hidx, ← hpal, hv]), ih (by omega)]
    · rw [s.scanFrom_succ_of_outOfRange hw left hps (Nat.not_lt.1 hin),
        t.scanFrom_succ_of_outOfRange hwt left hpt (by rw [← hidx, ← h.palLen]; exact Nat.not_lt.1 hin), h.bpp]

theorem sameBitmap.verdict : s.verdict = t.verdict := by
  have hfill := Memory.filled_congr h.stream
  have hscan (hw : s.streamWritten) : scan s = scan t := by
    rw [scan_eq_scanFrom, scan_eq_scanFrom, ← h.pixels]
    exact h.scanFrom hw (Nat.zero_add _).le
  simp only [State.verdict, ← h.inconsistent, ← h.width, ← h.height, ← h.bpp, ← hfill]
  split_ifs with hc hf
  · rfl
  · rw [hscan (s.filled_iff_streamWritten.1 hf)]
  · rfl

end

/-- Settles O31: the two states have one verdict, whose end gives the same response, result registers and bytes. -/
theorem decodeDependsOnTheBitmapOnly : Obligations.DecodeDependsOnTheBitmapOnly := by
  unfold Obligations.DecodeDependsOnTheBitmapOnly
  intro s t s' t' r h hs ht hr
  rw [exec_decode_eq_decodeEnd] at hs ht
  rw [← h.verdict] at ht
  cases hs
  cases ht
  cases hv : s.verdict with
  | none => rw [hv] at hr; cases hr; exact ⟨rfl, fun _ => ⟨rfl, rfl, rfl, rfl, rfl⟩, nofun⟩
  | some v =>
    rw [hv] at hr
    cases v with
    | unwritten => cases hr; exact ⟨rfl, fun hne => absurd rfl hne, nofun⟩
    | outOfRange b p => cases hr; exact ⟨rfl, fun _ => ⟨rfl, rfl, rfl, rfl, rfl⟩, nofun⟩
    | done out =>
      have hlen := scan_done_length (State.scan_of_verdict_done hv)
      cases hr
      refine ⟨rfl, fun _ => ⟨rfl, rfl, rfl, rfl, rfl⟩, fun _ a ha => ?_⟩
      simp [State.decodeEnd, Memory.read_writeAll, hlen, ha]

/-- Settles O32: DECODE leaves the bitmap as it was, so the second one has the verdict of the first. -/
theorem decodingAgainGivesTheSameBuffer : Obligations.DecodingAgainGivesTheSameBuffer := by
  unfold Obligations.DecodingAgainGivesTheSameBuffer
  intro s t ht hr
  rw [exec_decode_eq_decodeEnd] at ht
  cases ht
  cases hv : s.verdict with
  | none => rw [hv] at hr; cases hr
  | some v =>
    cases v with
    | unwritten | outOfRange => rw [hv] at hr; cases hr
    | done out =>
      have hsame : sameBitmap s (s.decodeEnd (some (.done out))) :=
        ⟨rfl, rfl, rfl, rfl, rfl, rfl, fun _ _ => rfl, fun _ _ => rfl⟩
      refine ⟨_, exec_decode_eq_decodeEnd _, ?_⟩
      rw [← hsame.verdict, hv]
      refine ⟨rfl, rfl, fun a => ?_⟩
      simp only [State.decodeEnd, State.answered_px, State.setPx_px, Memory.read_writeAll]
      split_ifs <;> rfl

end Sys2Proof.Machine
end

section
/-! A command is refused and changes nothing, or it completes and leaves the run's mark alone (60_exceptions.md rule
R228). -/

namespace Sys2Proof.Machine

/-- The answer is not a refusal. -/
def Answer.Completes (a : Answer) : Prop := ∀ r, a ≠ .refused r

theorem Answer.Completes.code_ne_three {a : Answer} (h : a.Completes) : a.response.code ≠ 3 := by
  cases a with
  | ok | paletteIndexOutOfRange | configurationError => simp [Response.code]
  | flag v => cases v <;> simp [Response.code]
  | moved x y v w =>
    have hcode : (Answer.moved x y v w).response.code = 0 := (statusWord_moved v.isSome w.isSome).1
    simp [hcode]
  | refused r => exact absurd rfl (h r)

theorem Answer.Completes.mark {a : Answer} (h : a.Completes) (b : Option RefuseReason) : a.mark b = b := by
  cases a with
  | ok | flag | moved | paletteIndexOutOfRange | configurationError => simp
  | refused r => exact absurd rfl (h r)

/-- A command that has its effect completes, and nothing but its answer could mark the run. -/
theorem effect_completes {i : Instr} {s t : State} (h : effect s t i) :
    ∃ (a : Answer) (u : State), t = u.answered a ∧ a.Completes ∧ u.runRefused = s.runRefused := by
  cases i with
  | wrreg => obtain ⟨-, r, -, -, -, rfl⟩ := h; exact ⟨_, _, rfl, nofun, by simp⟩
  | rdreg => obtain ⟨r, v, -, -, rfl⟩ := h; exact ⟨_, _, rfl, nofun, rfl⟩
  | wrpal | wrpk => obtain ⟨-, rfl⟩ := h; exact ⟨_, _, rfl, nofun, rfl⟩
  | rdpx => obtain ⟨-, -, b, -, rfl⟩ := h; exact ⟨_, _, rfl, nofun, rfl⟩
  | decode => obtain ⟨-, rfl⟩ | ⟨-, -, ⟨b, p, -, rfl⟩ | ⟨out, -, rfl⟩⟩ := h <;> exact ⟨_, _, rfl, nofun, rfl⟩
  | construct | recenter => obtain ⟨-, ⟨-, rfl⟩ | ⟨-, rfl⟩⟩ := h <;> exact ⟨_, _, rfl, nofun, by simp⟩
  | setdir | settgt => obtain ⟨-, rfl⟩ := h; exact ⟨_, _, rfl, nofun, by simp⟩
  | settgta =>
    obtain ⟨-, px, py, tx, ty, -, -, -, -, ⟨-, -, rfl⟩ | ⟨-, rfl⟩⟩ := h <;> exact ⟨_, _, rfl, nofun, by simp⟩
  | attgt => obtain ⟨-, px, py, tx, ty, -, -, rfl⟩ := h; exact ⟨_, _, rfl, nofun, rfl⟩
  | advance =>
    obtain ⟨-, px, py, hd, vd, stopX, stopY, -, -, -, -, -, rfl⟩ := h
    exact ⟨_, _, rfl, nofun, by simp⟩

theorem answered_of_code_eq_three {i : Instr} {s t : State} {r : Response} (h : exec i s = .next t)
    (hr : t.response = some r) (hcode : r.code = 3) : ∃ reason, t = s.answered (.refused reason) := by
  obtain hrefused | he := exec_cases h
  · exact hrefused
  · obtain ⟨a, u, rfl, ha, -⟩ := effect_completes he
    cases hr
    exact absurd hcode ha.code_ne_three

theorem runRefused_of_code_ne_three {i : Instr} {s t : State} {r : Response} (h : exec i s = .next t)
    (hr : t.response = some r) (hcode : r.code ≠ 3) : t.runRefused = s.runRefused := by
  obtain ⟨reason, rfl⟩ | he := exec_cases h
  · cases hr
    exact absurd rfl hcode
  · obtain ⟨a, u, rfl, ha, hu⟩ := effect_completes he
    rw [State.answered_runRefused, ha.mark, hu]

/-- Settles O10: code 3 is a refusal's, which sets the mark; any other code leaves the mark as it was. -/
theorem refusedCommandsChangeNothing : Obligations.RefusedCommandsChangeNothing := by
  unfold Obligations.RefusedCommandsChangeNothing
  intro i s t r h hr
  by_cases hcode : r.code = 3
  · obtain ⟨reason, rfl⟩ := answered_of_code_eq_three h hr hcode
    cases hr
    exact ⟨fun _ => ⟨rfl, by simp, rfl⟩, by simp [State.inDomain, Response.code]⟩
  · exact ⟨fun h3 => absurd h3 hcode, by simp [State.inDomain, runRefused_of_code_ne_three h hr hcode, hcode]⟩

end Sys2Proof.Machine
end

section
/-! The engine commands (20_memory.md rule R75): each reads and writes its own engine, and of that engine the
registers of its column of 10_state.md rule R25. -/

namespace Sys2Proof.Machine

/-! ### One engine -/

/-- Two commands on engine `e`, from `s` and from `t`, give one answer and leave one engine. -/
def EndAlike (e : EngineId) (s t : State) (o o' : Outcome) : Prop :=
  ∃ a k, o = .next ((s.setEngine e k).answered a) ∧ o' = .next ((t.setEngine e k).answered a)

section
variable {e : EngineId} {s t : State}

theorem EndAlike.answer_setEngine (a : Answer) (k : Engine) :
    EndAlike e s t (answer a (s.setEngine e k)) (answer a (t.setEngine e k)) := ⟨a, k, rfl, rfl⟩

variable (he : t.engine e = s.engine e)
include he

theorem EndAlike.answer (a : Answer) : EndAlike e s t (answer a s) (answer a t) := by
  refine ⟨a, s.engine e, ?_, ?_⟩
  · rw [State.setEngine_engine_self, answer_eq]
  · rw [← he, State.setEngine_engine_self, answer_eq]

theorem EndAlike.commitTick (px py : Int) (k : Tick) :
    EndAlike e s t (commitTick e px py k s) (commitTick e px py k t) := by
  simp only [Machine.commitTick, he]
  split
  · exact .answer he _
  · exact .answer_setEngine _ _

/-- What a command of engine `e` does is determined by the parameters and that engine. -/
theorem exec_endAlike {i : Instr} (hi : motionEngineOf i = some e) (hcfg : t.cfg = s.cfg) :
    EndAlike e s t (exec i s) (exec i t) := by
  cases i with
  | construct =>
    cases hi
    simp only [exec, execConstruct, he]
    split
    · exact .answer he _
    split <;> exact .answer_setEngine _ _
  | recenter =>
    cases hi
    simp only [exec, execRecenter, he, hcfg]
    split
    · exact .answer he _
    split <;> exact .answer_setEngine _ _
  | setdir =>
    cases hi
    simp only [exec, execSetdir, he]
    split
    · exact .answer he _
    · exact .answer_setEngine _ _
  | settgt =>
    cases hi
    simp only [exec, execSettgt, he]
    split
    · exact .answer he _
    · exact .answer_setEngine _ _
  | settgta =>
    cases hi
    simp only [exec, execSettgta, he, hcfg]
    split
    · exact .answer he _
    split
    · split
      · exact .answer he _
      split
      · exact .answer he _
      split
      · exact .answer he _
      · exact .answer_setEngine _ _
    · exact .answer he _
  | attgt =>
    cases hi
    simp only [exec, execAttgt, he]
    split
    · exact .answer he _
    split <;> exact .answer he _
  | advance =>
    cases hi
    simp only [exec, execAdvance, he, hcfg]
    split
    · exact .answer he _
    split
    · split
      · split
        · exact .answer he _
        · exact .commitTick he _ _ _
      · exact .commitTick he _ _ _
    · exact .answer he _
  | wrreg | rdreg | wrpal | wrpk | rdpx | decode => cases hi

end

/-- An engine command answers, and replaces its engine only. -/
theorem exec_motion_cases {i : Instr} {e : EngineId} {s t : State} (hi : motionEngineOf i = some e)
    (h : exec i s = .next t) : ∃ a k, t = (s.setEngine e k).answered a := by
  obtain ⟨a, k, hs, -⟩ := exec_endAlike (s := s) rfl hi rfl
  exact ⟨a, k, Host.Outcome.next.inj (h.symm.trans hs)⟩

theorem exec_motion_frame {i : Instr} {e : EngineId} {s t : State} (hi : motionEngineOf i = some e)
    (h : exec i s = .next t) :
    t.dec = s.dec ∧ t.cfg = s.cfg ∧ t.port = s.port ∧ t.freeDraws = s.freeDraws
      ∧ t.pk = s.pk ∧ t.pal = s.pal ∧ t.px = s.px := by
  obtain ⟨a, k, rfl⟩ := exec_motion_cases hi h
  simp

theorem exec_motion_engine_of_ne {i : Instr} {e f : EngineId} {s t : State} (hi : motionEngineOf i = some e)
    (h : exec i s = .next t) (hf : f ≠ e) : t.engine f = s.engine f := by
  obtain ⟨a, k, rfl⟩ := exec_motion_cases hi h
  rw [State.answered_engine, State.setEngine_engine_other s k hf]

/-- Settles O50: both states end with the same answer and the same engine. -/
theorem engineCommandsSeeTheirEngineOnly : Obligations.EngineCommandsSeeTheirEngineOnly := by
  unfold Obligations.EngineCommandsSeeTheirEngineOnly
  intro i e s t s' t' hi hcfg he hs ht
  obtain ⟨a, k, hs', ht'⟩ := exec_endAlike he.symm hi hcfg.symm
  obtain rfl := Host.Outcome.next.inj (hs.symm.trans hs')
  obtain rfl := Host.Outcome.next.inj (ht.symm.trans ht')
  simp

/-- Settles O51: in the other order each command meets its own engine and the parameters as they are, so it gives
the same answer and leaves the same engine. -/
theorem commandsToTheTwoEnginesCommute : Obligations.CommandsToTheTwoEnginesCommute := by
  unfold Obligations.CommandsToTheTwoEnginesCommute
  intro i j s s1 s2 t1 t2 hi hj hs1 hs2 ht1 ht2
  obtain ⟨a, k, hs1', ht2'⟩ := exec_endAlike (exec_motion_engine_of_ne hj ht1 (by decide)) hi
    (exec_motion_frame hj ht1).2.1
  obtain ⟨b, l, ht1', hs2'⟩ := exec_endAlike (exec_motion_engine_of_ne hi hs1 (by decide)) hj
    (exec_motion_frame hi hs1).2.1
  obtain rfl := Host.Outcome.next.inj (hs1.symm.trans hs1')
  obtain rfl := Host.Outcome.next.inj (ht1.symm.trans ht1')
  obtain rfl := Host.Outcome.next.inj (hs2.symm.trans hs2')
  obtain rfl := Host.Outcome.next.inj (ht2.symm.trans ht2')
  simp

/-! ### Which registers a command writes -/

/-- What command `i` of engine `e` leaves of the engine: geometry, steps and tolerance always, and each other
register where rule R25 does not name `i` among its writers. -/
def Engine.KeptBy (i : Instr) (e : EngineId) (k m : Engine) : Prop :=
  (k.sprW = m.sprW ∧ k.sprH = m.sprH ∧ k.dspW = m.dspW ∧ k.dspH = m.dspH
    ∧ k.stepX = m.stepX ∧ k.stepY = m.stepY ∧ k.jitTol = m.jitTol)
  ∧ (i ≠ .recenter e ∧ (∀ b, i ≠ .advance e b) → k.posX = m.posX ∧ k.posY = m.posY)
  ∧ (i ≠ .recenter e ∧ (∀ x y, i ≠ .settgt e x y) ∧ (∀ x y z, i ≠ .settgta e x y z) →
      k.tgtX = m.tgtX ∧ k.tgtY = m.tgtY)
  ∧ (i ≠ .recenter e ∧ (∀ x y, i ≠ .setdir e x y) ∧ (∀ x y z, i ≠ .settgta e x y z) ∧ (∀ b, i ≠ .advance e b) →
      k.dirH = m.dirH ∧ k.dirV = m.dirV)
  ∧ ((∀ b, i ≠ .advance e b) → k.prevX = m.prevX ∧ k.prevY = m.prevY)
  ∧ (i ≠ .construct e → k.configured = m.configured)
  ∧ (i ≠ .construct e ∧ i ≠ .recenter e → k.posValid = m.posValid ∧ k.err = m.err)
  ∧ (i ≠ .construct e ∧ (∀ b, i ≠ .advance e b) → k.prevValid = m.prevValid)

theorem Engine.KeptBy.refl (i : Instr) (e : EngineId) (m : Engine) : m.KeptBy i e m := by
  simp [Engine.KeptBy]

theorem effect_keptBy {i : Instr} {e : EngineId} {s t : State} (hi : motionEngineOf i = some e)
    (h : effect s t i) : (t.engine e).KeptBy i e (s.engine e) := by
  cases i with
  | construct =>
    cases hi
    obtain ⟨-, ⟨-, rfl⟩ | ⟨-, rfl⟩⟩ := h <;> simp [Engine.KeptBy]
  | recenter =>
    cases hi
    obtain ⟨-, ⟨-, rfl⟩ | ⟨-, rfl⟩⟩ := h <;> simp [Engine.KeptBy, Engine.placedAt]
  | setdir | settgt =>
    cases hi
    obtain ⟨-, rfl⟩ := h
    simp [Engine.KeptBy]
  | settgta =>
    cases hi
    obtain ⟨-, px, py, tx, ty, -, -, -, -, ⟨-, -, rfl⟩ | ⟨-, rfl⟩⟩ := h
    · simp [Engine.KeptBy.refl]
    · simp [Engine.KeptBy, Engine.aimed]
  | attgt =>
    cases hi
    obtain ⟨-, px, py, tx, ty, -, -, rfl⟩ := h
    simp [Engine.KeptBy.refl]
  | advance =>
    cases hi
    obtain ⟨-, px, py, hd, vd, stopX, stopY, -, -, -, -, -, rfl⟩ := h
    simp [Engine.KeptBy, Engine.ticked]
  | wrreg | rdreg | wrpal | wrpk | rdpx | decode => cases hi

theorem exec_motion_keptBy {i : Instr} {e : EngineId} {s t : State} (hi : motionEngineOf i = some e)
    (h : exec i s = .next t) : (t.engine e).KeptBy i e (s.engine e) := by
  obtain ⟨r, rfl⟩ | he := exec_cases h
  · simp [Engine.KeptBy.refl]
  · exact effect_keptBy hi he

/-- Settles O49: the rest of the state by the one engine that a command replaces, its registers by `KeptBy`. -/
theorem engineCommandsFrame : Obligations.EngineCommandsFrame := by
  unfold Obligations.EngineCommandsFrame
  intro i e s t hi h m k
  obtain ⟨hdec, hcfg, hport, hdraws, hpk, hpal, hpx⟩ := exec_motion_frame hi h
  refine ⟨fun f => exec_motion_engine_of_ne hi h, hdec, hcfg, hport, hdraws, fun a => ?_, exec_motion_keptBy hi h⟩
  rw [hpk, hpal, hpx]
  exact ⟨rfl, rfl, rfl⟩

end Sys2Proof.Machine
end

section
/-! What no command but its writers changes: the memories, the parameters and the error registers (10_state.md rules
R29, R38, R45, R50 to R53; 60_exceptions.md rule R227). -/

namespace Sys2Proof.Machine

/-! ### Memories -/

theorem State.decodeEnd_frame (s : State) (v : Option ScanResult) :
    (s.decodeEnd v).cfg = s.cfg ∧ (s.decodeEnd v).pk = s.pk ∧ (s.decodeEnd v).pal = s.pal
      ∧ (s.decodeEnd v).me0 = s.me0 ∧ (s.decodeEnd v).me1 = s.me1 := by
  cases v with
  | none => exact ⟨rfl, rfl, rfl, rfl, rfl⟩
  | some v => cases v <;> exact ⟨rfl, rfl, rfl, rfl, rfl⟩

theorem AccessWrite.memories {i : Instr} {s u : State} (h : AccessWrite s i u) :
    (u.pk ≠ s.pk → ∃ a v, i = .wrpk a v) ∧ (u.pal ≠ s.pal → ∃ a v, i = .wrpal a v) := by
  cases h with
  | nothing | register | entry | byte => simp

/-- Whatever the command, the parameters stay and each memory has its one writer. -/
theorem exec_memories {i : Instr} {s t : State} (h : exec i s = .next t) :
    t.cfg = s.cfg ∧ (t.pk ≠ s.pk → ∃ a v, i = .wrpk a v) ∧ (t.pal ≠ s.pal → ∃ a v, i = .wrpal a v)
      ∧ (t.px ≠ s.px → i = .decode) := by
  by_cases hd : i = .decode
  · subst hd
    rw [exec_decode_eq_decodeEnd] at h
    cases h
    obtain ⟨hcfg, hpk, hpal, -⟩ := s.decodeEnd_frame s.verdict
    exact ⟨hcfg, fun hne => absurd hpk hne, fun hne => absurd hpal hne, fun _ => rfl⟩
  cases hm : motionEngineOf i with
  | none =>
    obtain ⟨a, u, rfl, -, hw⟩ := exec_access_cases hm hd h
    obtain ⟨hpx, hcfg, -⟩ := hw.frame
    obtain ⟨hpk, hpal⟩ := hw.memories
    exact ⟨hcfg, hpk, hpal, fun hne => absurd hpx hne⟩
  | some e =>
    obtain ⟨-, hcfg, -, -, hpk, hpal, hpx⟩ := exec_motion_frame hm h
    exact ⟨hcfg, fun hne => absurd hpk hne, fun hne => absurd hpal hne, fun hne => absurd hpx hne⟩

/-- Settles O53: a step waits, refuses or runs the command of the packet at the port's head. -/
theorem eachMemoryHasOneWriter : Obligations.EachMemoryHasOneWriter := by
  unfold Obligations.EachMemoryHasOneWriter
  intro s t h
  obtain ⟨-, rfl⟩ | ⟨p, rest, hp, ⟨d, -, rfl⟩ | ⟨i, hi, hexec⟩⟩ := step_cases h
  · simp
  · simp
  · obtain ⟨hcfg, hpk, hpal, hpx⟩ := exec_memories hexec
    have hhead : s.port.head? = some p := by rw [hp]; rfl
    refine ⟨hcfg, fun hne => ?_, fun hne => ?_, fun hne => ?_⟩
    · obtain ⟨a, v, rfl⟩ := hpk hne
      exact ⟨p, a, v, hhead, hi⟩
    · obtain ⟨a, v, rfl⟩ := hpal hne
      exact ⟨p, a, v, hhead, hi⟩
    · obtain rfl := hpx hne
      exact ⟨p, hhead, hi⟩

/-! ### Error registers -/

/-- A DECODE that is not refused latches its code, and a valid buffer with code 0 alone. -/
theorem decodeEnd_latches {s : State} {v : Option ScanResult} {r : Response} (hr : (s.decodeEnd v).response = some r)
    (hcode : r.code ≠ 3) :
    ((s.decodeEnd v).dec.bufValid = true ↔ r.code = 0) ∧ (s.decodeEnd v).dec.err.toWord.toNat = r.code := by
  rcases v with _ | out | ⟨b, p⟩ | _ <;> cases hr
  · exact ⟨⟨nofun, nofun⟩, rfl⟩
  · exact ⟨⟨fun _ => rfl, fun _ => rfl⟩, rfl⟩
  · exact ⟨⟨nofun, nofun⟩, rfl⟩
  · exact absurd rfl hcode

/-- No other command touches the decoder's result registers. -/
theorem exec_sameResults {i : Instr} {s t : State} (hd : i ≠ .decode) (h : exec i s = .next t) :
    t.dec.SameResults s.dec := by
  cases hm : motionEngineOf i with
  | none =>
    obtain ⟨a, u, rfl, -, hw⟩ := exec_access_cases hm hd h
    exact hw.sameResults
  | some e =>
    rw [(exec_motion_frame hm h).1]
    exact .refl _

/-- CONSTRUCT and RECENTER, when not refused, latch their code. -/
theorem effect_latches {i : Instr} {e : EngineId} {s t : State} {r : Response} (hi : i = .construct e ∨ i = .recenter e)
    (h : effect s t i) (hr : t.response = some r) : (t.engine e).err.toWord.toNat = r.code := by
  obtain rfl | rfl := hi
  · obtain ⟨-, ⟨-, rfl⟩ | ⟨-, rfl⟩⟩ := h <;> cases hr <;> simp [ErrCode.toWord, Response.code]
  · obtain ⟨-, ⟨-, rfl⟩ | ⟨-, rfl⟩⟩ := h <;> cases hr <;> simp [Engine.placedAt, ErrCode.toWord, Response.code]

/-- No other command touches an engine's error register. -/
theorem exec_engine_err {i : Instr} {e : EngineId} {s t : State} (hc : i ≠ .construct e) (hr : i ≠ .recenter e)
    (h : exec i s = .next t) : (t.engine e).err = (s.engine e).err := by
  by_cases hd : i = .decode
  · subst hd
    rw [exec_decode_eq_decodeEnd] at h
    cases h
    obtain ⟨-, -, -, hme0, hme1⟩ := s.decodeEnd_frame s.verdict
    cases e
    · exact congrArg Engine.err hme0
    · exact congrArg Engine.err hme1
  cases hm : motionEngineOf i with
  | none =>
    obtain ⟨a, u, rfl, -, hw⟩ := exec_access_cases hm hd h
    obtain ⟨-, -, -, herr, -⟩ := hw.sameMotion e
    rwa [State.answered_engine]
  | some f =>
    by_cases hf : e = f
    · subst hf
      obtain ⟨-, -, -, -, -, -, hkeep, -⟩ := exec_motion_keptBy hm h
      exact (hkeep ⟨hc, hr⟩).2
    · rw [exec_motion_engine_of_ne hm h hf]

/-- Settles O33: DECODE, and CONSTRUCT and RECENTER of an engine, latch their code; a refusal and every other command
leave the registers alone. -/
theorem errorRegistersDescribeTheLatestCommand : Obligations.ErrorRegistersDescribeTheLatestCommand := by
  unfold Obligations.ErrorRegistersDescribeTheLatestCommand
  intro i s t r h hr
  refine ⟨?_, fun hkeep => ?_, fun e => ⟨fun hi hcode => ?_, fun hkeep => ?_⟩⟩
  · rintro rfl hcode
    rw [exec_decode_eq_decodeEnd] at h
    cases h
    exact decodeEnd_latches hr hcode
  · obtain hd | hcode := hkeep
    · obtain ⟨hvalid, hlen, herr, hbyte, hpix⟩ := exec_sameResults hd h
      exact ⟨hvalid, herr, hbyte, hpix, hlen⟩
    · obtain ⟨reason, rfl⟩ := answered_of_code_eq_three h hr hcode
      exact ⟨rfl, rfl, rfl, rfl, rfl⟩
  · refine effect_latches hi (effect_of_code_ne_three h fun r' hr' => ?_) hr
    rwa [Option.some.inj (hr'.symm.trans hr)]
  · obtain ⟨hc, hrec⟩ | hcode := hkeep
    · exact exec_engine_err hc hrec h
    · obtain ⟨reason, rfl⟩ := answered_of_code_eq_three h hr hcode
      rw [State.answered_engine]

end Sys2Proof.Machine
end

section
/-! The invariant of the block holds after reset, and every step keeps it (10_state.md rules R21 to R24, R29, R30, R38,
R39, R41, R45, R50 to R52). -/

namespace Sys2Proof.Machine

/-! ### One engine -/

namespace Engine.Inv

theorem ofReset : Engine.reset.Inv := by
  constructor <;> decide

section
variable {m : Engine} (h : m.Inv)
include h

theorem configurationError : { m with err := .configurationError : Engine }.Inv := { h with err := nofun }

/-- An engine that is not constructed has neither a position nor a previous one. -/
theorem constructed (hc : m.configured = false) (hz : m.zeroGeometry = false) :
    { m with configured := true, posValid := false, prevValid := false, err := .ok : Engine }.Inv := by
  have hpos : m.posValid = false := Bool.eq_false_iff.2 fun hp => by simp [h.placed hp] at hc
  have hprev : m.prevValid = false := Bool.eq_false_iff.2 fun hp => by simp [h.advanced hp] at hpos
  exact
    { posX := h.posX.trans hpos, posY := h.posY.trans hpos, tgtX := h.tgtX.trans hpos, tgtY := h.tgtY.trans hpos
      dirH := h.dirH.trans hpos, dirV := h.dirV.trans hpos
      prevX := h.prevX.trans hprev, prevY := h.prevY.trans hprev
      placed := nofun, advanced := nofun, geometry := fun _ => hz, err := nofun }

theorem placedAt (hc : m.configured = true) (cx cy : Int) : (m.placedAt cx cy).Inv :=
  { h with
    posX := rfl, posY := rfl, tgtX := rfl, tgtY := rfl, dirH := rfl, dirV := rfl
    placed := fun _ => hc, advanced := fun _ => rfl, err := nofun }

/-- WRREG of a step or of the tolerance. -/
theorem withSteps (stepX stepY jitTol : Word) :
    { m with stepX := stepX, stepY := stepY, jitTol := jitTol : Engine }.Inv := { h with }

/-- WRREG of a dimension, while the engine is not constructed. -/
theorem withGeometry (hc : m.configured = false) (sprW sprH dspW dspH : Word) :
    { m with sprW := sprW, sprH := sprH, dspW := dspW, dspH := dspH : Engine }.Inv :=
  { h with geometry := fun hc' => absurd hc' (by simp [hc]) }

variable (hr : m.notReady = none)
include hr

theorem withDirs (dh dv : Dir) : { m with dirH := some dh, dirV := some dv : Engine }.Inv := by
  obtain ⟨-, hp⟩ := Engine.notReady_eq_none hr
  exact { h with dirH := hp.symm, dirV := hp.symm }

theorem withTarget (x y : Word) : { m with tgtX := some x, tgtY := some y : Engine }.Inv := by
  obtain ⟨-, hp⟩ := Engine.notReady_eq_none hr
  exact { h with tgtX := hp.symm, tgtY := hp.symm }

theorem aimed (chX chY : Bool) (mx my px py tx ty : Int) : (m.aimed chX chY mx my px py tx ty).Inv := by
  obtain ⟨-, hp⟩ := Engine.notReady_eq_none hr
  refine { h with tgtX := ?_, tgtY := ?_, dirH := hp.symm, dirV := hp.symm }
  · cases chX
    · exact h.tgtX
    · exact hp.symm
  · cases chY
    · exact h.tgtY
    · exact hp.symm

theorem ticked (px py : Int) (k : Tick) : (m.ticked px py k).Inv := by
  obtain ⟨-, hp⟩ := Engine.notReady_eq_none hr
  exact
    { h with
      posX := hp.symm, posY := hp.symm, dirH := hp.symm, dirV := hp.symm
      prevX := rfl, prevY := rfl, advanced := fun _ => hp }

end

end Engine.Inv

/-! ### The decoder -/

/-- A failed DECODE leaves no buffer, and positions only beside code 1. -/
theorem Decoder.failed_inv (d : Decoder) (px : Memory 8) (cap : Nat) {err : ErrCode} {errByte errPix : Word}
    (h : err ≠ .paletteIndexOutOfRange → errByte = 0 ∧ errPix = 0) : (d.failed err errByte errPix).Inv px cap :=
  { empty := fun _ => rfl, ok := nofun, even := rfl, fits := Nat.zero_le _, filled := nofun, positions := h }

/-- A finished scan's bytes are a valid buffer once they stand in `PX`. -/
theorem Decoder.succeeded_inv (d : Decoder) (px : Memory 8) {cap : Nat} {out : List Byte} (heven : out.length % 2 = 0)
    (hcap : out.length ≤ cap) (hword : out.length < 2 ^ 32) :
    (d.succeeded out.length).Inv (px.writeAll 0 out) cap := by
  have hlen : (d.succeeded out.length).bufLen.toNat = out.length := Nat.mod_eq_of_lt hword
  refine { empty := nofun, ok := fun _ => rfl, even := by rwa [hlen], fits := by rwa [hlen], filled := fun _ a ha => ?_,
           positions := fun _ => ⟨rfl, rfl⟩ }
  rw [hlen] at ha
  simp [Memory.read_writeAll, ha]

/-- WRREG of a configuration register. -/
theorem Decoder.Inv.withConfig {d : Decoder} {px : Memory 8} {cap : Nat} (h : d.Inv px cap)
    (width height bpp palLen pkLen : Word) :
    { d with width := width, height := height, bpp := bpp, palLen := palLen, pkLen := pkLen : Decoder }.Inv px cap :=
  { h with }

/-! ### The state -/

namespace State.Inv

section
variable {s : State} (h : s.Inv)
include h

theorem engine (e : EngineId) : (s.engine e).Inv := by
  cases e
  · exact h.me0
  · exact h.me1

theorem answered (a : Answer) : (s.answered a).Inv := { h with }

theorem withPort (ps : List Packet) : ({ s with port := ps } : State).Inv := { h with }

theorem setEngine {e : EngineId} {m : Engine} (hm : m.Inv) : (s.setEngine e m).Inv := by
  cases e
  · exact { h with me0 := hm }
  · exact { h with me1 := hm }

theorem setDec {d : Decoder} (hd : d.Inv s.px s.cfg.pxCap) : (s.setDec d).Inv := { h with dec := hd }

theorem setPk {a : Nat} (ha : a < s.cfg.pkCap) (v : Byte) : (s.setPk (s.pk.write a v)).Inv :=
  { h with pkWf := Memory.write_wf h.pkWf a v, pkWithin := Memory.write_within h.pkWithin ha v }

theorem setPal {a : Nat} (ha : a < palDepth) (v : Colour) : (s.setPal (s.pal.write a v)).Inv :=
  { h with palWf := Memory.write_wf h.palWf a v, palWithin := Memory.write_within h.palWithin ha v }

theorem writeReg {e : EngineId} {r : Reg} (hlock : r.access = .untilConstruct → (s.engine e).configured = false)
    (v : Word) : (s.writeReg e r v).Inv := by
  cases r with
  | width | height | bpp | palLen | pkLen => exact h.setDec (h.dec.withConfig ..)
  | stepX | stepY | jitTol => exact h.setEngine ((h.engine e).withSteps ..)
  | sprW | sprH | dspW | dspH => exact h.setEngine ((h.engine e).withGeometry (hlock rfl) ..)
  | decStatus | decErr | errByte | errPix | bufLen => exact h
  | posX | posY | tgtX | tgtY | dirH | dirV | prevX | prevY | meStatus | meErr => exact h

/-- DECODE after a failed scan: no buffer, and `PX` any cells within its capacity. -/
theorem loosePx {errByte errPix : Word} :
    ((s.setDec (s.dec.failed .paletteIndexOutOfRange errByte errPix)).loosePx).Inv :=
  { h with
    dec := s.dec.failed_inv _ _ fun hne => absurd rfl hne
    pxWf := State.loosePx_wf _
    pxWithin := State.loosePx_within _ }

/-- DECODE after a finished scan: rule R121(e) keeps the buffer within `PX` and its length within a word. -/
theorem writeBuffer {out : List Byte} (hc : s.dec.inconsistent s.cfg = false) (hscan : scan s = .done out) :
    ((s.setDec (s.dec.succeeded out.length)).setPx (s.px.writeAll 0 out)).Inv := by
  have hlen := scan_done_length hscan
  have hfit : 2 * s.dec.width.toNat * s.dec.height.toNat ≤ min s.cfg.pxCap (2 ^ 32 - 2) := by
    simp only [Decoder.inconsistent, Bool.or_eq_false_iff, decide_eq_false_iff_not, Nat.not_lt] at hc
    obtain ⟨⟨⟨-, hfit⟩, -⟩, -⟩ := hc
    exact hfit
  rw [Nat.mul_assoc] at hfit
  unfold State.pixels at hlen
  have hcap : out.length ≤ s.cfg.pxCap := by omega
  exact
    { h with
      dec := s.dec.succeeded_inv s.px (by omega) hcap (by omega)
      pxWf := Memory.writeAll_wf h.pxWf 0 out
      pxWithin := Memory.writeAll_within h.pxWithin (by rwa [Nat.zero_add]) }

/-- Every command's effect keeps the invariant. -/
theorem of_effect {i : Instr} {t : State} (he : effect s t i) : t.Inv := by
  cases i with
  | wrreg => obtain ⟨-, r, -, -, hlock, rfl⟩ := he; exact (h.writeReg hlock _).answered _
  | rdreg => obtain ⟨r, v, -, -, rfl⟩ := he; exact h.answered _
  | wrpal => obtain ⟨ha, rfl⟩ := he; exact (h.setPal ha _).answered _
  | wrpk => obtain ⟨ha, rfl⟩ := he; exact (h.setPk ha _).answered _
  | rdpx => obtain ⟨-, -, b, -, rfl⟩ := he; exact h.answered _
  | decode =>
    obtain ⟨-, rfl⟩ | ⟨hc, -, ⟨b, p, -, rfl⟩ | ⟨out, hscan, rfl⟩⟩ := he
    · exact (h.setDec (s.dec.failed_inv _ _ fun _ => ⟨rfl, rfl⟩)).answered _
    · exact h.loosePx.answered _
    · exact (h.writeBuffer hc hscan).answered _
  | construct e =>
    obtain ⟨hc, ⟨-, rfl⟩ | ⟨hz, rfl⟩⟩ := he
    · exact (h.setEngine (h.engine e).configurationError).answered _
    · exact (h.setEngine ((h.engine e).constructed hc hz)).answered _
  | recenter e =>
    obtain ⟨hc, ⟨-, rfl⟩ | ⟨-, rfl⟩⟩ := he
    · exact (h.setEngine (h.engine e).configurationError).answered _
    · exact (h.setEngine ((h.engine e).placedAt hc _ _)).answered _
  | setdir e => obtain ⟨hr, rfl⟩ := he; exact (h.setEngine ((h.engine e).withDirs hr _ _)).answered _
  | settgt e => obtain ⟨hr, rfl⟩ := he; exact (h.setEngine ((h.engine e).withTarget hr _ _)).answered _
  | settgta e =>
    obtain ⟨hr, px, py, tx, ty, -, -, -, -, ⟨-, -, rfl⟩ | ⟨-, rfl⟩⟩ := he
    · exact h.answered _
    · exact (h.setEngine ((h.engine e).aimed hr ..)).answered _
  | attgt => obtain ⟨-, px, py, tx, ty, -, -, rfl⟩ := he; exact h.answered _
  | advance e =>
    obtain ⟨hr, px, py, hd, vd, stopX, stopY, -, -, -, -, -, rfl⟩ := he
    exact (h.setEngine ((h.engine e).ticked hr _ _ _)).answered _

theorem of_exec {i : Instr} {t : State} (he : exec i s = .next t) : t.Inv := by
  obtain ⟨r, rfl⟩ | he := exec_cases he
  · exact h.answered _
  · exact h.of_effect he

end

end State.Inv

/-- Settles O12: no memory holds a cell, there is no buffer, and both engines reset alike. -/
theorem resetMeetsTheInvariant : Obligations.ResetMeetsTheInvariant := by
  unfold Obligations.ResetMeetsTheInvariant
  exact
    { cfg := rfl, pkWf := .nil, palWf := .nil, pxWf := .nil, pkWithin := nofun, palWithin := nofun, pxWithin := nofun
      dec := { empty := fun _ => rfl, ok := nofun, even := rfl, fits := Nat.zero_le _, filled := nofun,
               positions := fun _ => ⟨rfl, rfl⟩ }
      me0 := .ofReset, me1 := .ofReset }

/-- Settles O13: a step waits, refuses or runs a command, and each keeps the invariant. -/
theorem stepKeepsTheInvariant : Obligations.StepKeepsTheInvariant := by
  unfold Obligations.StepKeepsTheInvariant
  intro s t h hstep
  obtain ⟨-, rfl⟩ | ⟨p, rest, -, ⟨d, -, rfl⟩ | ⟨i, -, hi⟩⟩ := step_cases hstep
  · exact h
  · exact (h.withPort rest).answered _
  · exact (h.withPort rest).of_exec hi

/-- Settles O22: the invariant gives the byte that RDPX returns. -/
theorem validBufferIsReadable : Obligations.ValidBufferIsReadable := by
  unfold Obligations.ValidBufferIsReadable
  intro a s h hv ha
  obtain ⟨b, hb⟩ := Option.isSome_iff_exists.1 (h.dec.filled hv a.toNat ha)
  exact ⟨b, hb, exec_rdpx_of_lt hv ha hb⟩

end Sys2Proof.Machine
end

section
/-! RECENTER again, and ADVANCE where an axis halts, where strips must cover, and where nothing can overflow
(41_motion.md rules R156, R170 to R179). -/

namespace Sys2Proof.Machine

/-! ### RECENTER -/

@[simp] theorem State.okWith_engine (s : State) (data : List Word) (e : EngineId) :
    (s.okWith data).engine e = s.engine e := by
  cases e <;> rfl

section
variable {e : EngineId} {s t : State} (hc : (s.engine e).configured = true)
  (hz : (s.engine e).zeroGeometry = false) (ht : exec (.recenter e) s = .next t)
include hc hz ht

theorem recenter_engine : t.engine e = (s.engine e).placedAt
    (s.cfg.center (u32 (s.engine e).dspW) (u32 (s.engine e).sprW))
    (s.cfg.center (u32 (s.engine e).dspH) (u32 (s.engine e).sprH)) := by
  rw [exec_recenter_of_geometry hc hz] at ht
  cases ht
  simp

/-- RECENTER writes nothing that it reads. -/
theorem recenter_recenter : exec (.recenter e) t = .next t := by
  have hme := recenter_engine hc hz ht
  rw [exec_recenter_of_geometry hc hz] at ht
  have hcfg : t.cfg = s.cfg := by cases ht; exact State.setEngine_cfg ..
  have hok : t.okWith [] = t := by cases ht; rfl
  have hagain : (t.engine e).placedAt (t.cfg.center (u32 (t.engine e).dspW) (u32 (t.engine e).sprW))
      (t.cfg.center (u32 (t.engine e).dspH) (u32 (t.engine e).sprH)) = t.engine e := by
    rw [hcfg, hme]
    rfl
  rw [exec_recenter_of_geometry (by rw [hme]; exact hc) (by rw [hme]; exact hz), hagain, State.setEngine_engine_self,
    hok]

theorem recenter_attgt : exec (.attgt e) t = .next (t.respond 0x00000100 []) := by
  have hme := recenter_engine hc hz ht
  rw [exec_attgt_of_ready (by rw [hme]; exact Engine.notReady_of_placed hc rfl) (by rw [hme]; rfl) (by rw [hme]; rfl)
    (by rw [hme]; rfl) (by rw [hme]; rfl), if_pos ⟨rfl, rfl⟩]

end

/-- Settles O37: RECENTER places the engine where it is, and puts its position and its target at one point. -/
theorem recenterIsIdempotentAndAtTarget : Obligations.RecenterIsIdempotentAndAtTarget := by
  unfold Obligations.RecenterIsIdempotentAndAtTarget
  intro e s t ht hr
  cases hc : (s.engine e).configured with
  | false => rw [exec_recenter_of_not_configured hc] at ht; cases ht; cases hr
  | true =>
    cases hz : (s.engine e).zeroGeometry with
    | true => rw [exec_recenter_of_zeroGeometry hc hz] at ht; cases ht; cases hr
    | false => exact ⟨recenter_recenter hc hz ht, recenter_attgt hc hz ht⟩

/-! ### An axis that halts -/

@[simp] theorem tickDir_of_stopped (c : Config) (d : Dir) (pos step sprite display : Int) :
    tickDir c true d pos step sprite display = .stop := rfl

@[simp] theorem tickDir_of_stop (c : Config) (stopped : Bool) (pos step sprite display : Int) :
    tickDir c stopped .stop pos step sprite display = .stop := by
  cases stopped <;> rfl

@[simp] theorem tickPos_of_stop (pos step : Int) : tickPos .stop pos step = pos := by
  simp [tickPos, Dir.toInt]

@[simp] theorem stripWords_none : stripWords none = [] := rfl

/-- A tick that keeps the y coordinate leaves POS_Y as it is and returns no horizontal strip. -/
theorem commitTick_of_halted {e : EngineId} {s : State} {wy : Word} (hpy : (s.engine e).posY = some wy) (wx : Word)
    {k : Tick} (hk : k.fits = true) (hy : k.posY = s32 wy) (hstrip : k.horizontal = none) :
    commitTick e (s32 wx) (s32 wy) k s = .next ((s.setEngine e { s.engine e with
        prevX := some wx, prevY := some wy, prevValid := true
        dirH := some k.dirH, dirV := some k.dirV, posX := some (word k.posX) }).respond
      (if k.vertical.isSome then 0x00010000 else 0)
      ([word k.posX, wy] ++ stripWords (k.vertical.map Strip.toRect))) := by
  simp only [commitTick_of_fits hk, hstrip, Engine.ticked, hy, word_s32, ← hpy, stripWords_none, Option.isSome_none,
    Bool.false_eq_true, if_false, BitVec.ofNat_eq_ofNat, BitVec.or_zero, Option.map_none, List.append_nil]

/-- Where the y coordinate stands, only the new x and the vertical strip can fail to fit. -/
theorem Tick.fits_iff_of_halted {posX : Int} {wy : Word} {dirH : Dir} {vertical : Option Strip} :
    Tick.fits { posX, posY := s32 wy, dirH, dirV := .stop, vertical, horizontal := none } = true
      ↔ inS32 posX ∧ stripFits vertical = true := by
  simp only [Tick.fits, Bool.and_eq_true, fitsS32_iff]
  exact ⟨fun ⟨⟨⟨hx, _⟩, hv⟩, _⟩ => ⟨hx, hv⟩, fun ⟨hx, hv⟩ => ⟨⟨⟨hx, inS32_s32 wy⟩, hv⟩, rfl⟩⟩

/-- Settles O47: both axes halt, so the tick fits whatever the steps are, and it changes the directions only. -/
theorem spriteAtItsTargetHalts : Obligations.SpriteAtItsTargetHalts := by
  unfold Obligations.SpriteAtItsTargetHalts
  intro e s wx wy hd vd m hc hp hpx hpy htx hty hhd hvd
  rw [exec_advance_of_ready (Engine.notReady_of_placed hc hp) hpx hpy hhd hvd fun _ => ⟨htx, hty⟩]
  have htick : m.tick s.cfg (decide (true = true ∧ wx = wx)) (decide (true = true ∧ wy = wy)) (s32 wx) (s32 wy) hd vd
      = { posX := s32 wx, posY := s32 wy, dirH := .stop, dirV := .stop, vertical := none, horizontal := none } := by
    simp [Engine.tick]
  have hfits : Tick.fits
      { posX := s32 wx, posY := s32 wy, dirH := .stop, dirV := .stop, vertical := none, horizontal := none } = true :=
    Tick.fits_iff_of_halted.2 ⟨inS32_s32 wx, rfl⟩
  rw [htick, commitTick_of_halted hpy wx hfits rfl rfl]
  simp only [word_s32, ← hpx]
  rfl

/-- Settles O44: the vertical axis halts, so only the horizontal one can fail to fit. -/
theorem largestStepOnAStoppedAxis : Obligations.LargestStepOnAStoppedAxis := by
  unfold Obligations.LargestStepOnAStoppedAxis
  intro e stop s wx wy ux uy hd vd m hlow hc hp hpx hpy hhd hvd htgt _ hhalt px sx sw hd' px' vx
  have hexec := exec_advance_of_ready (Engine.notReady_of_placed hc hp) hpx hpy hhd hvd htgt
  have hvdir : tickDir s.cfg (decide (stop = true ∧ wy = uy)) vd (s32 wy) (u32 m.stepY) (u32 m.sprH) (u32 m.dspH)
      = .stop := by
    obtain rfl | hat := hhalt <;> simp [*]
  have htick :
      m.tick s.cfg (decide (stop = true ∧ wx = ux)) (decide (stop = true ∧ wy = uy)) (s32 wx) (s32 wy) hd vd
        = { posX := px', posY := s32 wy, dirH := hd', dirV := .stop
            vertical := if px' ≠ px then
              some (verticalStrip hd' (s32 wx) (s32 wy) (u32 m.stepX) (u32 m.sprW) (u32 m.sprH)) else none
            horizontal := none } := by
    simp only [Engine.tick, hvdir, tickDir_of_atOrBelow hlow, tickPos_of_stop, ne_eq, not_true_eq_false, if_false]
    simp only [tickPos_eq]
    rfl
  have hfits := Tick.fits_iff_of_halted (posX := px') (wy := wy) (dirH := hd') (vertical := if px' ≠ px then
    some (verticalStrip hd' (s32 wx) (s32 wy) (u32 m.stepX) (u32 m.sprW) (u32 m.sprH)) else none)
  rw [stripFits_ite, verticalStrip_fits_iff] at hfits
  rw [htick] at hexec
  split
  next hok =>
    rw [commitTick_of_halted hpy wx (hfits.2 hok) rfl rfl] at hexec
    simp only [Option.isSome_ite, stripWords_ite, verticalStrip_words] at hexec
    exact hexec
  next hno => exact hexec.trans (commitTick_of_not_fits (mt hfits.1 hno))

/-! ### The strips cover -/

section
variable {d : Dir} {qx qy step sw sh c r : Int} (hstep : 0 ≤ step) (hold : covers qx qy sw sh c r)
include hstep hold

/-- A column that the new footprint leaves is in the vertical strip, and the axis moved. -/
theorem verticalStrip_covers (hnew : ¬ (tickPos d qx step ≤ c ∧ c < tickPos d qx step + sw)) :
    Strip.covers (if tickPos d qx step ≠ qx then some (verticalStrip d qx qy step sw sh) else none) c r := by
  obtain ⟨hxlo, hxhi, hrow⟩ := hold
  cases d with
  | stop => rw [tickPos_of_stop] at hnew; exact absurd ⟨hxlo, hxhi⟩ hnew
  | positive | negative =>
    simp only [tickPos_eq, reduceCtorEq, if_true, if_false] at hnew ⊢
    refine ⟨_, if_pos (by omega), ?_, ?_, hrow⟩ <;> simp only [verticalStrip, reduceCtorEq, if_true, if_false] <;> omega

/-- A row that the new footprint leaves is in the horizontal strip, and the axis moved. -/
theorem horizontalStrip_covers (hnew : ¬ (tickPos d qy step ≤ r ∧ r < tickPos d qy step + sh)) :
    Strip.covers (if tickPos d qy step ≠ qy then some (horizontalStrip d qx qy step sw sh) else none) c r := by
  obtain ⟨hxlo, hxhi, hylo, hyhi⟩ := hold
  cases d with
  | stop => rw [tickPos_of_stop] at hnew; exact absurd ⟨hylo, hyhi⟩ hnew
  | positive | negative =>
    simp only [tickPos_eq, reduceCtorEq, if_true, if_false] at hnew ⊢
    refine ⟨_, if_pos (by omega), hxlo, hxhi, ?_, ?_⟩ <;>
      simp only [horizontalStrip, reduceCtorEq, if_true, if_false] <;> omega

end

/-- Settles O45: a point that the new footprint leaves, it leaves by its column or by its row. -/
theorem stripsCoverTheUncoveredFootprint : Obligations.StripsCoverTheUncoveredFootprint := by
  unfold Obligations.StripsCoverTheUncoveredFootprint
  intro m c stopX stopY px py hd vd col row k hold hnew
  by_cases hx : k.posX ≤ col ∧ col < k.posX + u32 m.sprW
  · exact .inr (horizontalStrip_covers (u32_nonneg m.stepY) hold fun hy => hnew ⟨hx.1, hx.2, hy⟩)
  · exact .inl (verticalStrip_covers (u32_nonneg m.stepX) hold hx)

/-! ### Inside the travel range -/

/-- With room for two steps the new coordinate stays in the travel range: an axis turns before it leaves. -/
theorem tickPos_mem_travelRange {c : Config} (hlow : c.lowEdgeCmp = .atOrBelow) (stopped : Bool) (d : Dir)
    {pos step sprite display : Int} (hstep : 0 ≤ step) (hroom : 2 * step ≤ display - sprite) (hlo : 0 ≤ pos)
    (hhi : pos ≤ display - sprite) :
    0 ≤ tickPos (tickDir c stopped d pos step sprite display) pos step
      ∧ tickPos (tickDir c stopped d pos step sprite display) pos step ≤ display - sprite := by
  cases stopped with
  | true => simp [*]
  | false =>
    cases d with
    | stop => simp [*]
    | positive =>
      simp only [tickDir]
      split_ifs <;> simp only [tickPos, Dir.toInt] <;> omega
    | negative =>
      simp only [tickDir, Config.atLowEdge, hlow, decide_eq_true_eq]
      split_ifs <;> simp only [tickPos, Dir.toInt] <;> omega

/-- The vertical strip of a sprite that stays in the travel range stands within the display. -/
theorem verticalStrip_x_mem_display {d : Dir} {qx qy step sw sh display : Int} (hsw : 0 ≤ sw)
    (hold : 0 ≤ qx ∧ qx ≤ display - sw) (hnew : 0 ≤ tickPos d qx step ∧ tickPos d qx step ≤ display - sw)
    (hmove : tickPos d qx step ≠ qx) :
    0 ≤ (verticalStrip d qx qy step sw sh).x ∧ (verticalStrip d qx qy step sw sh).x ≤ display := by
  cases d with
  | stop => exact absurd (tickPos_of_stop qx step) hmove
  | positive | negative =>
    simp only [tickPos_eq, verticalStrip, reduceCtorEq, if_true, if_false] at hnew ⊢
    omega

/-- The horizontal strip, a row higher than the step, may begin one row above the display. -/
theorem horizontalStrip_y_mem_display {d : Dir} {qx qy step sw sh display : Int} (hsh : 0 ≤ sh)
    (hold : 0 ≤ qy ∧ qy ≤ display - sh) (hnew : 0 ≤ tickPos d qy step ∧ tickPos d qy step ≤ display - sh)
    (hmove : tickPos d qy step ≠ qy) :
    -1 ≤ (horizontalStrip d qx qy step sw sh).y ∧ (horizontalStrip d qx qy step sw sh).y ≤ display := by
  cases d with
  | stop => exact absurd (tickPos_of_stop qy step) hmove
  | positive | negative =>
    simp only [tickPos_eq, horizontalStrip, reduceCtorEq, if_true, if_false] at hnew ⊢
    omega

/-- With room for two steps on both axes, within displays below 2^31, a tick fits and keeps the sprite in its travel
range. -/
theorem Engine.tick_of_room {m : Engine} {c : Config} {wx wy : Word} (hlow : c.lowEdgeCmp = .atOrBelow)
    (stopX stopY : Bool) (hd vd : Dir)
    (hx : 0 ≤ s32 wx ∧ s32 wx ≤ u32 m.dspW - u32 m.sprW) (hy : 0 ≤ s32 wy ∧ s32 wy ≤ u32 m.dspH - u32 m.sprH)
    (hroomX : 2 * u32 m.stepX ≤ u32 m.dspW - u32 m.sprW) (hroomY : 2 * u32 m.stepY ≤ u32 m.dspH - u32 m.sprH)
    (hdw : u32 m.dspW < 2 ^ 31) (hdh : u32 m.dspH < 2 ^ 31) :
    let k := m.tick c stopX stopY (s32 wx) (s32 wy) hd vd
    k.fits = true ∧ (0 ≤ k.posX ∧ k.posX ≤ u32 m.dspW - u32 m.sprW)
      ∧ (0 ≤ k.posY ∧ k.posY ≤ u32 m.dspH - u32 m.sprH) := by
  intro k
  have hsw := u32_nonneg m.sprW
  have hsh := u32_nonneg m.sprH
  have hX : 0 ≤ k.posX ∧ k.posX ≤ u32 m.dspW - u32 m.sprW :=
    tickPos_mem_travelRange hlow stopX hd (u32_nonneg m.stepX) hroomX hx.1 hx.2
  have hY : 0 ≤ k.posY ∧ k.posY ≤ u32 m.dspH - u32 m.sprH :=
    tickPos_mem_travelRange hlow stopY vd (u32_nonneg m.stepY) hroomY hy.1 hy.2
  have within {v display : Int} (hdisplay : display < 2 ^ 31) (hv : -1 ≤ v ∧ v ≤ display) : inS32 v := by
    unfold inS32
    omega
  have hfitX : inS32 k.posX := within hdw (by omega)
  have hfitY : inS32 k.posY := within hdh (by omega)
  refine ⟨(m.tick_fits_iff c stopX stopY wx wy hd vd).2 ⟨hfitX, hfitY, fun hmove => within hdw ?_,
    fun hmove => ⟨within hdh ?_, by omega⟩⟩, hX, hY⟩
  · obtain ⟨hlo, hhi⟩ := verticalStrip_x_mem_display (qy := s32 wy) (sh := u32 m.sprH) hsw hx hX hmove
    exact ⟨le_trans (by decide) hlo, hhi⟩
  · exact horizontalStrip_y_mem_display hsh hy hY hmove

/-- ADVANCE's status word has code 0, whichever strips it returns. -/
theorem movedStatus_code (rv rh : Bool) (data : List Word) :
    Response.code ⟨(if rv then 0x00010000 else 0) ||| (if rh then 0x00020000 else 0), data⟩ = 0 := by
  have hcode : ∀ rv rh : Bool,
      ((if rv then 0x00010000 else 0 : Word) ||| (if rh then 0x00020000 else 0)).toNat % 256 = 0 := by decide
  exact hcode rv rh

@[simp] theorem State.respond_engine (s : State) (status : Word) (data : List Word) (e : EngineId) :
    (s.respond status data).engine e = s.engine e := by
  cases e <;> rfl

/-- Settles O46: each axis stays in its travel range, so the coordinates and the strips fit and ADVANCE completes. -/
theorem bouncingSpriteStaysInTheTravelRange : Obligations.BouncingSpriteStaysInTheTravelRange := by
  unfold Obligations.BouncingSpriteStaysInTheTravelRange
  intro e stop s wx wy hd vd m sx sy rx ry hlow hc hp hpx hpy hhd hvd htgt hroomX hroomY hdw hdh hx0 hx1 hy0 hy1
  obtain ⟨ux, uy, hu⟩ : ∃ ux uy, stop = true → m.tgtX = some ux ∧ m.tgtY = some uy := by
    cases stop with
    | false => exact ⟨0, 0, nofun⟩
    | true =>
      obtain ⟨htx, hty⟩ := htgt rfl
      obtain ⟨ux, hux⟩ := Option.isSome_iff_exists.1 htx
      obtain ⟨uy, huy⟩ := Option.isSome_iff_exists.1 hty
      exact ⟨ux, uy, fun _ => ⟨hux, huy⟩⟩
  have hexec := exec_advance_of_ready (Engine.notReady_of_placed hc hp) hpx hpy hhd hvd hu
  generalize decide (stop = true ∧ wx = ux) = stopX, decide (stop = true ∧ wy = uy) = stopY at hexec
  obtain ⟨hfits, hX, hY⟩ := m.tick_of_room hlow stopX stopY hd vd ⟨hx0, hx1⟩ ⟨hy0, hy1⟩ hroomX hroomY hdw hdh
  rw [commitTick_of_fits hfits] at hexec
  obtain ⟨hfitX, hfitY, -⟩ := (m.tick_fits_iff s.cfg stopX stopY wx wy hd vd).1 hfits
  refine ⟨_, _, _, _, hexec, rfl, movedStatus_code _ _ _,
    by rw [State.respond_engine, State.setEngine_engine_same]; rfl,
    by rw [State.respond_engine, State.setEngine_engine_same]; rfl, ?_⟩
  show 0 ≤ s32 (word _) ∧ s32 (word _) ≤ _ ∧ 0 ≤ s32 (word _) ∧ s32 (word _) ≤ _
  rw [s32_word hfitX, s32_word hfitY]
  exact ⟨hX.1, hX.2, hY⟩

end Sys2Proof.Machine
end

section
/-! A step at the port, the register map, what RDREG reads, and the first command after reset (10_state.md rules R27,
R40; 20_memory.md rule R71; 70_reset_and_hazards.md rule R264). -/

namespace Sys2Proof.Machine

/-! ### The port -/

/-- Settles O7: the oldest packet is taken, and decoded to the command that runs. -/
theorem stepRunsTheDecodedCommand : Obligations.StepRunsTheDecodedCommand := by
  unfold Obligations.StepRunsTheDecodedCommand
  intro s p rest i hp hi
  simp only [step, State.takePacket_cons hp, hi]

/-- Settles O8: there is no packet to take. -/
theorem stepWithoutAPacketHoldsTheState : Obligations.StepWithoutAPacketHoldsTheState := by
  unfold Obligations.StepWithoutAPacketHoldsTheState
  intro s hp
  simp only [step, State.takePacket_nil hp]

/-! ### Registers -/

/-- Settles O15: the rows are a table, and a number finds its own register only. -/
theorem registerMapOfTheBlock : Obligations.RegisterMapOfTheBlock := by
  unfold Obligations.RegisterMapOfTheBlock
  exact ⟨by decide, Reg.ofNumber_number, fun _ => Reg.ofNumber_eq_none⟩

/-- `DEC.STATUS` holds its one flag in bit 0 (rule R37). -/
theorem Decoder.statusWord_eq (d : Decoder) : d.statusWord = if d.bufValid then 1 else 0 := by
  unfold Decoder.statusWord
  cases d.bufValid <;> rfl

/-- `ME.STATUS` holds its three flags in bits 0 to 2 (rule R44). -/
theorem Engine.statusWord_eq (m : Engine) : m.statusWord
    = (if m.configured then 1 else 0) + (if m.posValid then 2 else 0) + (if m.prevValid then 4 else 0) := by
  unfold Engine.statusWord
  cases m.configured <;> cases m.posValid <;> cases m.prevValid <;> rfl

theorem Engine.statusWord_getLsbD (m : Engine) {i : Nat} (hi : 3 ≤ i) : m.statusWord.getLsbD i = false :=
  Nat.testBit_lt_two_pow (m.statusWord_lt.trans_le (Nat.pow_le_pow_right (n := 2) (by decide) hi))

/-- Settles O18: a plain register reads as its field; flags, codes and directions as their words. -/
theorem readBackOfFlagsCodesAndDirections : Obligations.ReadBackOfFlagsCodesAndDirections := by
  unfold Obligations.ReadBackOfFlagsCodesAndDirections
  intro s e m
  have hdecErr : s.readReg e .decErr = some s.dec.err.toWord := rfl
  have hmeErr : s.readReg e .meErr = some m.err.toWord := rfl
  refine ⟨⟨rfl, rfl, rfl, rfl, rfl⟩,
    ⟨congrArg some s.dec.statusWord_eq, fun h => by rw [hdecErr, h]; rfl, fun h => by rw [hdecErr, h]; rfl,
      fun h => by rw [hdecErr, h]; rfl, rfl, rfl, rfl⟩,
    ⟨rfl, rfl, rfl, rfl, rfl, rfl, rfl⟩, ⟨rfl, rfl, rfl, rfl, rfl, rfl⟩, fun r d h => ?_,
    congrArg some m.statusWord_eq, fun i => m.statusWord_getLsbD,
    fun h => by rw [hmeErr, h]; rfl, fun h => by rw [hmeErr, h]; rfl⟩
  obtain ⟨rfl, hd⟩ | ⟨rfl, hd⟩ := h
  · rw [State.readReg_dirH, hd]
    rcases d with _ | _ | _ | _ <;> rfl
  · rw [State.readReg_dirV, hd]
    rcases d with _ | _ | _ | _ <;> rfl

/-! ### After reset -/

/-- After reset RDREG finds no value in POS, TGT, DIR and PREV, and 0 in every other register. -/
theorem State.reset_readReg (e : EngineId) (r : Reg) : State.reset.readReg e r
    = if r ∈ [.posX, .posY, .tgtX, .tgtY, .dirH, .dirV, .prevX, .prevY] then none else some 0 := by
  cases e <;> cases r <;> rfl

/-- Settles O14: each command by the branch that the reset state takes. -/
theorem firstCommandAfterReset : Obligations.FirstCommandAfterReset := by
  unfold Obligations.FirstCommandAfterReset
  refine ⟨rfl, fun e => ?_, fun e x y z stop => ?_, fun a => exec_rdpx_of_noBuffer rfl, fun e r hw => ?_,
    fun e r v hw hr => ?_, fun i c hi => ?_, fun a b => ?_⟩
  · rw [exec_construct_of_zeroGeometry (by simp [Engine.reset]) (by simp [Engine.reset, Engine.zeroGeometry]),
      State.reset_engine]
  · have hc : (State.reset.engine e).configured = false := by rw [State.reset_engine]; rfl
    obtain ⟨-, hrefused, -⟩ := engineCommandsNeedConstructionAndPlacement e State.reset x y z stop
    simpa only [List.forall_mem_cons, List.not_mem_nil, false_implies, implies_true, and_true] using hrefused hc
  · have hread := State.reset_readReg e r
    split_ifs at hread ⊢
    · exact exec_rdreg_of_none hw hread
    · exact exec_rdreg_of_some hw hread
  · have hlock : ¬ (r.access = .untilConstruct ∧ (State.reset.engine e).configured = true) := by simp [Engine.reset]
    exact ⟨_, exec_wrreg_of_writable hw hr hlock, by rw [State.answered_readReg, State.readReg_writeReg_same _ _ _ hr],
      rfl⟩
  · exact ⟨_, exec_wrpal_of_lt c hi, Memory.read_write_same _ _ _, rfl⟩
  · exact ⟨_, exec_wrpk_of_lt b a.isLt, Memory.read_write_same _ _ _, rfl⟩

end Sys2Proof.Machine
end
